-- ==== Sys2Proof/Word.lean ====
section
/-! DEFINITION. The word types of FPSA-DEC (spec/00_scope.md R9, spec/20_memory.md R60). -/

namespace Sys2Proof

/-- One byte: every host access moves one (R9, R63). -/
abbrev Byte := BitVec 8

/-- A 16-bit register or number (R10). -/
abbrev Half := BitVec 16

/-- A 10-bit byte address of the host register space (R60). -/
abbrev Addr := BitVec 10

/-- A finite byte string, first byte first (R9). -/
abbrev ByteString := List Byte

end Sys2Proof
end

