-- ==== Sys2Proof/Syntax.lean ====
section
/-! DEFINITION. The instructions of spec/opcode_table.json, one constructor a row, and what the host can issue
(spec/30_encoding.md R81, R83; spec/00_scope.md R8). -/

namespace Sys2Proof

/-- The instructions: the six commands of format CMD8, whose operands are implicit (R80, R81), and the two host
transactions (R83). -/
inductive Instr where
  /-- NOP, opcode 0x00 (R110). -/
  | nop
  /-- CONFIG, opcode 0x01 (R111). -/
  | config
  /-- DECRYPT, opcode 0x02 (R130). -/
  | decrypt
  /-- UNPAD, opcode 0x03 (R170). -/
  | unpad
  /-- PARSE, opcode 0x04 (R190). -/
  | parse
  /-- DECODE, opcode 0x05 (R210). -/
  | decode
  /-- HOST_RD: a host read of the byte at `addr` (R66). -/
  | hostRd (addr : Addr)
  /-- HOST_WR: a host write of `data` at `addr` (R67). -/
  | hostWr (addr : Addr) (data : Byte)
  deriving DecidableEq, Repr

/-- A host bus transaction (R83), the triple of a direction (the constructor), an address and, for a write, the byte
written. The byte a read returns is the block's answer and no part of the request. -/
inductive HostTx where
  /-- Direction R. -/
  | read (addr : Addr)
  /-- Direction W. -/
  | write (addr : Addr) (data : Byte)
  deriving DecidableEq, Repr

/-- What the host can do to the block (R8): a transaction, or the reset, which is "a separate event, not a
transaction" (R83). -/
inductive HostEvent where
  | tx (t : HostTx)
  | reset
  deriving DecidableEq, Repr

end Sys2Proof
end

