-- ==== Sys2Proof/WellFormed.lean ====
section
/-! DEFINITION. Well-formed instructions: those that are the instruction of their own transaction. -/

namespace Sys2Proof

/-- The CMD register's address (spec/10_state.md R23). -/
abbrev cmdAddr : Addr := 0x000

/-- An instruction is well-formed when it is what its transaction is decoded to. Every command and every read is; a
host write is unless it writes CMD, because "a write to address 0x000 is a CMD8 command" (spec/opcode_table.json,
row HOST_WR; spec/10_state.md R23). Addresses and data are in range by their types. Log 6. -/
def Instr.wellFormed : Instr → Bool
  | .nop => true
  | .config => true
  | .decrypt => true
  | .unpad => true
  | .parse => true
  | .decode => true
  | .hostRd _ => true
  | .hostWr a _ => a != cmdAddr

end Sys2Proof
end

