-- ==== Sys2Proof/Decode.lean ====
section
/-! DEFINITION. The decoder, total on every host transaction, and the encoder (spec/30_encoding.md R80 to R83). -/

namespace Sys2Proof

/-- A row of the opcode map (R81): a command byte `op` is the row's command when `op &&& mask = pattern`. -/
structure OpcodeRow where
  mask : Byte
  pattern : Byte
  instr : Instr
  deriving DecidableEq, Repr

/-- The opcode map (R81): the whole byte is matched, mask 0xFF. -/
def opcodeMap : List OpcodeRow :=
  [⟨0xFF, 0x00, .nop⟩, ⟨0xFF, 0x01, .config⟩, ⟨0xFF, 0x02, .decrypt⟩,
   ⟨0xFF, 0x03, .unpad⟩, ⟨0xFF, 0x04, .parse⟩, ⟨0xFF, 0x05, .decode⟩]

/-- Why a transaction is no instruction. -/
inductive DecodeError where
  /-- A command byte outside the opcode map (R82): the block answers it with ILLEGAL_COMMAND (R112). -/
  | illegalCommand (op : Byte)
  deriving DecidableEq, Repr

/-- The command decoder (R81), total on every byte. -/
def decodeCmd (op : Byte) : Except DecodeError Instr :=
  match opcodeMap.find? (fun r => op &&& r.mask == r.pattern) with
  | some r => .ok r.instr
  | none => .error (.illegalCommand op)

/-- The decoder: the instruction of a host transaction (R83). A write to CMD is the command its byte encodes. -/
def decode : HostTx → Except DecodeError Instr
  | .read a => .ok (.hostRd a)
  | .write a v => if a = cmdAddr then decodeCmd v else .ok (.hostWr a v)

/-- The encoder: the host transaction of an instruction (R81, R83). -/
def encode : Instr → HostTx
  | .nop => .write cmdAddr 0x00
  | .config => .write cmdAddr 0x01
  | .decrypt => .write cmdAddr 0x02
  | .unpad => .write cmdAddr 0x03
  | .parse => .write cmdAddr 0x04
  | .decode => .write cmdAddr 0x05
  | .hostRd a => .read a
  | .hostWr a v => .write a v

/-- A transaction as one number, in the table's numbering. A command (8 bits) is its byte, written to CMD. A host
transaction has its address in bits 9:0 (the table's field); the table gives the direction and the data byte no bits,
and the model puts the direction in bit 10 (R is 0, W is 1) and a write's data in bits 23:16, with bits 15:11 zero.
DESIGN CHOICE, log 5. -/
def txOfWord (nbits w : Nat) : Option HostTx :=
  if nbits ≤ 8 then
    if w < 256 then some (.write cmdAddr (BitVec.ofNat 8 w)) else none
  else
    let addr := BitVec.ofNat 10 w
    let data := BitVec.ofNat 8 (w / 2 ^ 16)
    if w / 2 ^ 11 % 2 ^ 5 ≠ 0 ∨ 2 ^ 24 ≤ w then none
    else if w / 2 ^ 10 % 2 = 1 then some (.write addr data)
    else if data = 0 then some (.read addr)
    else none

/-- The number of a transaction, with how many bits it takes: `txOfWord` reads it back. -/
def wordOfTx : HostTx → Nat × Nat
  | .read a => (16, a.toNat)
  | .write a v => if a = cmdAddr then (8, v.toNat) else (24, v.toNat * 2 ^ 16 + 2 ^ 10 + a.toNat)

/-- The word of an instruction, with how many bits it takes. -/
def encodeTableWord (i : Instr) : Nat × Nat := wordOfTx (encode i)

/-- The instruction the decoder reads from an opcode-table word (the host's question). -/
def decodeTableWord (nbits w : Nat) : Option Instr :=
  match txOfWord nbits w with
  | some t =>
    match decode t with
    | .ok i => some i
    | .error _ => none
  | none => none

end Sys2Proof
end

