-- ==== Sys2Proof/Config.lean ====
section
/-! DEFINITION. The implementation parameters of spec/00_scope.md R7. The fixed ones carry their value; the two OPEN
ones (CMD_LATENCY, R277; FPSA_BASE, R68) are opaque constants, so no proof can see what they are. -/

namespace Sys2Proof.Config

/-- BLOCK_BYTES (R7). -/
@[simp] abbrev blockBytes : Nat := 16

/-- KEY_BYTES (R7). -/
@[simp] abbrev keyBytes : Nat := 16

/-- BODY_BYTES (R7). -/
@[simp] abbrev bodyBytes : Nat := 8

/-- HEADER_BYTES, present only in an 18-byte payload (R7, R86). -/
@[simp] abbrev headerBytes : Nat := 2

/-- PAYLOAD_LENGTHS (R7): the ciphertext alone, or behind a header. -/
@[simp] abbrev payloadLengths : List Nat := [blockBytes, headerBytes + blockBytes]

/-- IBUF_BYTES and OBUF_BYTES (R7). -/
@[simp] abbrev bufferBytes : Nat := 256

/-- MAX_BLOCKS (R7). -/
@[simp] abbrev maxBlocks : Nat := bufferBytes / blockBytes

/-- The AES round count Nr (R7, R134). -/
@[simp] abbrev rounds : Nat := 10

/-- FPSA_BASE, OPEN (R68, D37): where the platform places the block's 1 KiB window on a host bus. Log 9. -/
opaque fpsaBase : Nat

/-- The latency no NOP or illegal command exceeds and no other command undercuts (R277). Log 8. -/
opaque latencyFloor : Nat

/-- How long a NOP or an illegal command would take but for the floor. Log 8. -/
opaque quickLatency : Byte → Half → Nat → Nat

/-- What another command takes beyond the floor. Log 8. -/
opaque extraLatency : Byte → Half → Nat → Nat

/-- The command bytes that R277 calls the quickest: NOP (0x00) and the illegal commands (above 0x05). -/
def quickCommand (op : Byte) : Bool := op == 0x00 || 0x05 < op

/-- CMD_LATENCY, OPEN (R277): finite for every command, with no bound stated; `padStop` is where a padding check
failed, on which UNPAD and DECODE may depend. NOP and illegal commands take no longer than any other command. The
machine has no time: no step reads this. Log 8. -/
def cmdLatency (op : Byte) (inLen : Half) (padStop : Nat) : Nat :=
  if quickCommand op then min (quickLatency op inLen padStop) latencyFloor
  else latencyFloor + extraLatency op inLen padStop

end Sys2Proof.Config
end

