-- ==== Sys2Proof/Machine/State.lean ====
section
/-! DEFINITION. The state of one FPSA-DEC instance, as plain data, and its reset (spec/10_state.md R20, R40). -/

namespace Sys2Proof.Machine

/-- A buffer's bytes by index: (index, byte) cells, indices strictly rising, no cell equal to what an unlisted index
reads as (`Memory.unlisted`), so that equal contents are equal data. -/
abbrev Memory := List Host.Cell

/-- The whole architectural state of the block: exactly the fields of R20. `record` is REC[0..7] (R34). -/
structure Block where
  /-- STATUS (R24). -/
  status : Byte
  /-- STATE.CFG_LOCK (R25). -/
  cfgLock : Bool
  /-- STATE.KEY_OK (R25). -/
  keyOk : Bool
  /-- STATE.REC_VALID (R25). -/
  recValid : Bool
  /-- ERR_STAGE (R26). -/
  errStage : Byte
  /-- ERR_INFO (R27). -/
  errInfo : Half
  /-- OUT_LEN (R28). -/
  outLen : Half
  /-- IN_LEN (R29). -/
  inLen : Half
  /-- ADV_VID (R30). -/
  advVid : Half
  /-- EXP_VID (R31). -/
  expVid : Half
  /-- KEY_LEN (R32). -/
  keyLen : Byte
  /-- KEY[0..15] (R33). -/
  key : Vector Byte 16
  /-- REC[0..7] (R34). -/
  record : Vector Byte 8
  /-- IBUF[0..255] (R35). -/
  ibuf : Memory
  /-- OBUF[0..255] (R36). -/
  obuf : Memory
  deriving DecidableEq, Repr

/-- The machine: the block, and the model's own view of its one host port (R70). -/
structure State where
  /-- The block (R20). -/
  block : Block
  /-- What the host has issued and the block has not taken yet, in issue order, the accesses held during a command
  (R274) among them. The model's own field, log 1. -/
  pending : List HostEvent
  /-- The bytes that host reads have returned, oldest first: the host's observation (R278). The model's own field,
  log 2. -/
  reads : List Byte
  deriving DecidableEq, Repr

/-- The reasons a step faults: none. "An error saves no state, changes no mode, masks nothing, uses no stack and goes
to no vector" (spec/60_exceptions.md R246); every error is a STATUS code and the block goes on (R241, R251). Log 14,
safe. -/
inductive Fault where
  deriving DecidableEq, Repr

/-- The reasons a step is refused. -/
inductive Refusal where
  /-- Asked for by the host's form for an instruction that has no meaning yet. No arm of `exec` raises it: every row
  of the table has its meaning. Safe. -/
  | notModelled (mnemonic : String)
  deriving DecidableEq, Repr

/-- The reset value of every field of R20 (R40, R270). -/
def Block.reset : Block where
  status := 0x00
  cfgLock := false
  keyOk := false
  recValid := false
  errStage := 0x00
  errInfo := 0x0000
  outLen := 0x0000
  inLen := 0x0000
  advVid := 0x0000
  expVid := 0x0000
  keyLen := 0x00
  key := Vector.replicate 16 0x00
  record := Vector.replicate 8 0x00
  ibuf := []
  obuf := []

/-- The machine right after reset: the block reset, the host having issued and read nothing (logs 1, 2). -/
def State.reset : State where
  block := Block.reset
  pending := []
  reads := []

end Sys2Proof.Machine
end

