-- ==== Sys2Proof/Machine/Memory.lean ====
section
/-! DEFINITION. The block's buffers: reading and writing bytes and byte strings (spec/10_state.md R35, R36;
spec/00_scope.md R11 `MemRead`, `MemWrite`), and the canonical form they keep. -/

namespace Sys2Proof.Machine

/-- What a byte that no cell lists reads as: the reset value of IBUF and OBUF (R40). -/
def Memory.unlisted : Byte := 0x00

/-- The byte at index `i` of a buffer. -/
def Memory.read : Memory → Nat → Byte
  | [], _ => Memory.unlisted
  | c :: m, i => if c.1 = i then c.2 else Memory.read m i

/-- The buffer with the cell `(i, v)` put before the first cell of a higher index. -/
def Memory.insert : Memory → Nat → Byte → Memory
  | [], i, v => [(i, v)]
  | c :: m, i, v => if i < c.1 then (i, v) :: c :: m else c :: Memory.insert m i v

/-- The buffer with byte `v` at index `i`: no cell where `v` is what an unlisted byte reads as. -/
def Memory.write (m : Memory) (i : Nat) (v : Byte) : Memory :=
  let rest := m.filter (fun c => c.1 != i)
  if v = Memory.unlisted then rest else Memory.insert rest i v

/-- Canonical form from index `lo` on. -/
def Memory.wfFrom : Nat → Memory → Bool
  | _, [] => true
  | lo, c :: m =>
    decide (lo ≤ c.1) && decide (c.1 < Config.bufferBytes) && (c.2 != Memory.unlisted) && Memory.wfFrom (c.1 + 1) m

/-- Canonical form: indices strictly rising and below 256, and no cell that reads as an unlisted byte does. -/
def Memory.wf (m : Memory) : Bool := Memory.wfFrom 0 m

/-- `MemRead(buf, i, n)`: the byte string `buf[i], ..., buf[i+n-1]` (R11). -/
def memRead (m : Memory) : Nat → Nat → ByteString
  | _, 0 => []
  | i, n + 1 => m.read i :: memRead m (i + 1) n

/-- `MemWrite(buf, i, n, s)`, `n` being the length of `s`: the bytes of `s` at `buf[i..i+n)` (R11). -/
def memWrite (m : Memory) : Nat → ByteString → Memory
  | _, [] => m
  | i, v :: s => memWrite (m.write i v) (i + 1) s

end Sys2Proof.Machine
end

