-- ==== Sys2Proof/Machine/Operands.lean ====
section
/-! DEFINITION. Operand assembly: byte order, signs and lengths (spec/00_scope.md R9, R10; spec/20_memory.md R61;
spec/30_encoding.md R89, R93), and the byte strings the commands take. -/

namespace Sys2Proof.Machine

/-- `be16(b0, b1) = b0 * 256 + b1`, `b0` the more significant byte (R10). -/
def be16 (b0 b1 : Byte) : Half := BitVec.ofNat 16 (b0.toNat * 256 + b1.toNat)

/-- `v[15:8]`: the byte at the lower address of a 16-bit register (R61). -/
def hiByte (v : Half) : Byte := v.extractLsb' 8 8

/-- `v[7:0]`: the byte at the higher address of a 16-bit register (R61). -/
def loByte (v : Half) : Byte := v.extractLsb' 0 8

/-- `v` with bits 15:8 written; "writing one byte of a 16-bit register changes only that byte" (R63). -/
def setHi (v : Half) (b : Byte) : Half := be16 b (loByte v)

/-- `v` with bits 7:0 written (R63). -/
def setLo (v : Half) (b : Byte) : Half := be16 (hiByte v) b

/-- `zext_16` of a byte (R10). -/
def zext16 (b : Byte) : Half := b.zeroExtend 16

/-- `sint_16`: the two's-complement reading (R10). -/
def sint16 (v : Half) : Int := if v.getLsbD 15 then (v.toNat : Int) - 2 ^ 16 else v.toNat

/-- `sint_8`: the two's-complement reading (R10). -/
def sint8 (v : Byte) : Int := if v.getLsbD 7 then (v.toNat : Int) - 2 ^ 8 else v.toNat

/-- A natural number as the 16-bit value of a length register. -/
def half (n : Nat) : Half := BitVec.ofNat 16 n

/-- Byte `i` of a byte string; every use is within the string's length. -/
def byteAt (s : ByteString) (i : Nat) : Byte := s.getD i 0x00

/-- The 64-bit big-endian reading of an 8-byte body, byte 0 in bits 63:56 (R89). -/
def be64 (s : ByteString) : BitVec 64 :=
  byteAt s 0 ++ byteAt s 1 ++ byteAt s 2 ++ byteAt s 3 ++ byteAt s 4 ++ byteAt s 5 ++ byteAt s 6 ++ byteAt s 7

/-- `bytes(n, v)` (R9). -/
def bytes (n : Nat) (v : Byte) : ByteString := List.replicate n v

/-- The operand length n = IN_LEN, a mathematical natural (R10, R29). -/
def operandLength (b : Block) : Nat := b.inLen.toNat

/-- Whether a length is no positive multiple of 16 (R130, R170). -/
def isNotBlocks (n : Nat) : Bool := n == 0 || n % Config.blockBytes != 0

/-- `MemRead(IBUF, 0, n)`, the operand of length `n` (R29, R35). -/
def operand (b : Block) (n : Nat) : ByteString := memRead b.ibuf 0 n

/-- `MemRead(KEY, 0, 16)`: the key as a byte string, KEY[0] first (R33, R62). -/
def keyString (b : Block) : ByteString := b.key.toList

/-- An 8-byte body as the bytes of REC, in body order (R34). -/
def recordBytes (s : ByteString) : Vector Byte 8 :=
  #v[byteAt s 0, byteAt s 1, byteAt s 2, byteAt s 3, byteAt s 4, byteAt s 5, byteAt s 6, byteAt s 7]

/-- REC[0..8) all zero. -/
def zeroRecord : Vector Byte 8 := recordBytes []

end Sys2Proof.Machine
end

