-- ==== Sys2Proof/Machine/Gf.lean ====
section
/-! DEFINITION. Arithmetic in GF(2^8) modulo x^8 + x^4 + x^3 + x + 1 (spec/41_aes_decrypt.md R136). Addition is `^^^`. -/

namespace Sys2Proof.Machine

/-- `xtime(a)`: multiplication by x (R136). -/
def xtime (a : Byte) : Byte := (a <<< 1) ^^^ (if a.getLsbD 7 then 0x1B else 0x00)

/-- `xtime^i(a)` (R136). -/
def xtimePow : Nat → Byte → Byte
  | 0, a => a
  | i + 1, a => xtime (xtimePow i a)

/-- The part of `mul(a, b)` that bit `i` of `b` contributes (R136). -/
def mulTerm (a b : Byte) (i : Nat) : Byte := if b.getLsbD i then xtimePow i a else 0x00

/-- `mul(a, b)`: the sum over the bits `i` of `b` that are 1 of `xtime^i(a)` (R136). -/
def mul (a b : Byte) : Byte :=
  mulTerm a b 0 ^^^ mulTerm a b 1 ^^^ mulTerm a b 2 ^^^ mulTerm a b 3 ^^^
    mulTerm a b 4 ^^^ mulTerm a b 5 ^^^ mulTerm a b 6 ^^^ mulTerm a b 7

/-- `a` multiplied by itself `2^k` times: k squarings. -/
def squareTimes : Nat → Byte → Byte
  | 0, a => a
  | k + 1, a => squareTimes k (mul a a)

/-- `inv(a)`: the multiplicative inverse, and 0 for 0 (R136), as a^254 = a^2 a^4 a^8 a^16 a^32 a^64 a^128. -/
def gfInv (a : Byte) : Byte :=
  mul (squareTimes 1 a) (mul (squareTimes 2 a) (mul (squareTimes 3 a) (mul (squareTimes 4 a)
    (mul (squareTimes 5 a) (mul (squareTimes 6 a) (squareTimes 7 a))))))

end Sys2Proof.Machine
end

