-- ==== Sys2Proof/Machine/Aes.lean ====
section
/-! DEFINITION. The AES-128 inverse cipher and its no-chaining composition (spec/41_aes_decrypt.md R132 to R143). -/

namespace Sys2Proof.Machine

/-- Four bytes: a column of the state (`row r` is `s[r][c]`, R135) or a word of the key schedule (byte r, R143). -/
structure Column where
  row0 : Byte
  row1 : Byte
  row2 : Byte
  row3 : Byte
  deriving DecidableEq, Repr

/-- The AES state: a 4 x 4 array of bytes, by columns (R135). -/
structure AesState where
  col0 : Column
  col1 : Column
  col2 : Column
  col3 : Column
  deriving DecidableEq, Repr

/-- A function on every byte of a column. -/
def mapColumn (f : Byte → Byte) (c : Column) : Column := ⟨f c.row0, f c.row1, f c.row2, f c.row3⟩

/-- Bytewise exclusive-or of two columns. -/
def xorColumn (c d : Column) : Column :=
  ⟨c.row0 ^^^ d.row0, c.row1 ^^^ d.row1, c.row2 ^^^ d.row2, c.row3 ^^^ d.row3⟩

/-- Four bytes of a string from index `i`, as a column. -/
def columnAt (b : ByteString) (i : Nat) : Column := ⟨byteAt b i, byteAt b (i + 1), byteAt b (i + 2), byteAt b (i + 3)⟩

/-- The bytes of a column, row 0 first. -/
def columnBytes (c : Column) : ByteString := [c.row0, c.row1, c.row2, c.row3]

/-- `toState(b)`: `s[r][c] = b[r + 4c]` (R135). -/
def toState (b : ByteString) : AesState := ⟨columnAt b 0, columnAt b 4, columnAt b 8, columnAt b 12⟩

/-- `fromState(s)`: `b[r + 4c] = s[r][c]` (R135). -/
def fromState (s : AesState) : ByteString :=
  columnBytes s.col0 ++ columnBytes s.col1 ++ columnBytes s.col2 ++ columnBytes s.col3

/-- A function on every byte of the state. -/
def mapState (f : Byte → Byte) (s : AesState) : AesState :=
  ⟨mapColumn f s.col0, mapColumn f s.col1, mapColumn f s.col2, mapColumn f s.col3⟩

/-- `InvSubBytes(s)` (R139). -/
def invSubBytes (s : AesState) : AesState := mapState invSbox s

/-- `InvShiftRows(s)`: `s'[r][(c + r) mod 4] = s[r][c]` (R140). -/
def invShiftRows (s : AesState) : AesState :=
  ⟨⟨s.col0.row0, s.col3.row1, s.col2.row2, s.col1.row3⟩,
   ⟨s.col1.row0, s.col0.row1, s.col3.row2, s.col2.row3⟩,
   ⟨s.col2.row0, s.col1.row1, s.col0.row2, s.col3.row3⟩,
   ⟨s.col3.row0, s.col2.row1, s.col1.row2, s.col0.row3⟩⟩

/-- `InvMixColumns` on one column (R141). -/
def invMixColumn (a : Column) : Column :=
  ⟨mul 0x0e a.row0 ^^^ mul 0x0b a.row1 ^^^ mul 0x0d a.row2 ^^^ mul 0x09 a.row3,
   mul 0x09 a.row0 ^^^ mul 0x0e a.row1 ^^^ mul 0x0b a.row2 ^^^ mul 0x0d a.row3,
   mul 0x0d a.row0 ^^^ mul 0x09 a.row1 ^^^ mul 0x0e a.row2 ^^^ mul 0x0b a.row3,
   mul 0x0b a.row0 ^^^ mul 0x0d a.row1 ^^^ mul 0x09 a.row2 ^^^ mul 0x0e a.row3⟩

/-- `InvMixColumns(s)` (R141). -/
def invMixColumns (s : AesState) : AesState :=
  ⟨invMixColumn s.col0, invMixColumn s.col1, invMixColumn s.col2, invMixColumn s.col3⟩

/-- Word `i` of a key schedule. -/
def wordAt (w : List Column) (i : Nat) : Column := w.getD i ⟨0x00, 0x00, 0x00, 0x00⟩

/-- `AddRoundKey(s, w, round)`: `s'[r][c] = s[r][c] ^ w[4*round + c][r]` (R142). -/
def addRoundKey (s : AesState) (w : List Column) (round : Nat) : AesState :=
  ⟨xorColumn s.col0 (wordAt w (4 * round)), xorColumn s.col1 (wordAt w (4 * round + 1)),
   xorColumn s.col2 (wordAt w (4 * round + 2)), xorColumn s.col3 (wordAt w (4 * round + 3))⟩

/-- `RotWord` (R143). -/
def rotWord (a : Column) : Column := ⟨a.row1, a.row2, a.row3, a.row0⟩

/-- `SubWord` (R143). -/
def subWord (a : Column) : Column := mapColumn sbox a

/-- `Rcon[1..10]` (R143). -/
def rcon (j : Nat) : Byte := [0x01, 0x02, 0x04, 0x08, 0x10, 0x20, 0x40, 0x80, 0x1B, 0x36].getD (j - 1) 0x00

/-- The value `t` that word `i` of the schedule adds to word `i - 4` (R143). -/
def scheduleTerm (i : Nat) (previous : Column) : Column :=
  if i % 4 = 0 then xorColumn (subWord (rotWord previous)) ⟨rcon (i / 4), 0x00, 0x00, 0x00⟩ else previous

/-- A key schedule with `k` more words: word `i` is `w[i-4] ^ t` (R143). -/
def expandWords : Nat → List Column → List Column
  | 0, w => w
  | k + 1, w =>
    expandWords k (w ++ [xorColumn (wordAt w (w.length - 4)) (scheduleTerm w.length (wordAt w (w.length - 1)))])

/-- `KeyExpansion(K)`: the 44 words `w[0..43]` (R143). -/
def keyExpansion (key : ByteString) : List Column :=
  expandWords (4 * Config.rounds) [columnAt key 0, columnAt key 4, columnAt key 8, columnAt key 12]

/-- The full rounds of the inverse cipher, from `round` down to 1 (R134). -/
def invRounds (w : List Column) : Nat → AesState → AesState
  | 0, s => s
  | round + 1, s => invRounds w round (invMixColumns (addRoundKey (invSubBytes (invShiftRows s)) w (round + 1)))

/-- `InvCipher` on the state, under a key schedule (R134). -/
def invCipherState (w : List Column) (s : AesState) : AesState :=
  addRoundKey (invSubBytes (invShiftRows (invRounds w 9 (addRoundKey s w 10)))) w 0

/-- `InvCipher(K, C)` for one block (R134). -/
def invCipher (key block : ByteString) : ByteString :=
  fromState (invCipherState (keyExpansion key) (toState block))

/-- Block `i` of a byte string: `C[16i .. 16i+16)` (R87). -/
def blockOf (s : ByteString) (i : Nat) : ByteString := (s.drop (16 * i)).take 16

/-- `ecbDecrypt(K, C)`: the blocks decrypted one by one, with no chaining between them (R132). -/
def ecbDecrypt (key c : ByteString) : ByteString :=
  (List.range (c.length / 16)).flatMap (fun i => invCipher key (blockOf c i))

end Sys2Proof.Machine
end

