-- ==== Sys2Proof/Machine/Flags.lean ====
section
/-! DEFINITION. Outcome codes, stage codes and the STATE byte (spec/60_exceptions.md R240; spec/10_state.md R25, R26). -/

namespace Sys2Proof.Machine

/-- The closed set of outcome kinds, by name (R240). -/
inductive Kind where
  | none
  | ok
  | notApplicable
  | malformedLength
  | invalidKeySize
  | invalidCiphertextLength
  | invalidPaddingSize
  | invalidPaddingValue
  | invalidPaddingBytes
  | unexpectedBodyLength
  | illegalCommand
  | notConfigured
  | alreadyConfigured
  | lengthOverflow
  deriving DecidableEq, Repr

/-- `code(K)`: the STATUS code of a kind (R240). -/
def code : Kind → Byte
  | .none => 0x00
  | .ok => 0x01
  | .notApplicable => 0x02
  | .malformedLength => 0x10
  | .invalidKeySize => 0x11
  | .invalidCiphertextLength => 0x12
  | .invalidPaddingSize => 0x13
  | .invalidPaddingValue => 0x14
  | .invalidPaddingBytes => 0x15
  | .unexpectedBodyLength => 0x16
  | .illegalCommand => 0x20
  | .notConfigured => 0x21
  | .alreadyConfigured => 0x22
  | .lengthOverflow => 0x23

/-- The stages at which a command can stop, by name (R26). -/
inductive Stage where
  | none
  | filter
  | extract
  | decrypt
  | unpad
  | parse
  | config
  | interface
  deriving DecidableEq, Repr

/-- The ERR_STAGE code of a stage (R26). -/
def stageCode : Stage → Byte
  | .none => 0x00
  | .filter => 0x01
  | .extract => 0x02
  | .decrypt => 0x03
  | .unpad => 0x04
  | .parse => 0x05
  | .config => 0x06
  | .interface => 0x07

/-- The STATE byte: `zext_8(REC_VALID<<2 | KEY_OK<<1 | CFG_LOCK)`, bits 7:3 reading 0 (R25, R66). -/
def stateByte (b : Block) : Byte :=
  ((BitVec.ofBool b.recValid).zeroExtend 8 <<< 2) ||| ((BitVec.ofBool b.keyOk).zeroExtend 8 <<< 1) |||
    (BitVec.ofBool b.cfgLock).zeroExtend 8

/-- The results of the pure functions of 41 to 44: `Ok(v)`, `Err(K, info)` and `NotApplicable` (R11). -/
inductive Result (α : Type) where
  | ok (v : α)
  | err (k : Kind) (info : Nat)
  | notApplicable
  deriving DecidableEq, Repr

/-- What a pure function's caller does with its result: "an Err is returned as is" (R211). -/
def andThen {α β : Type} (r : Result α) (f : α → Result β) : Result β :=
  match r with
  | .ok v => f v
  | .err k info => .err k info
  | .notApplicable => .notApplicable

end Sys2Proof.Machine
end

