-- ==== Sys2Proof/Machine/Ops.lean ====
section
/-! DEFINITION. The operations every instruction shares: the register map and the host's access to it
(spec/20_memory.md R66 to R69), how a command ends (spec/60_exceptions.md R241; spec/00_scope.md R11), and reset
(spec/70_reset_and_hazards.md R270). -/

namespace Sys2Proof.Machine

/-! ### The register map -/

/-- What stands at a host address (R68). -/
inductive Location where
  | cmd
  | status
  | state
  | errStage
  | errInfoHi
  | errInfoLo
  | outLenHi
  | outLenLo
  | inLenHi
  | inLenLo
  | advVidHi
  | advVidLo
  | expVidHi
  | expVidLo
  | keyLen
  | key (i : Fin 16)
  | record (i : Fin 8)
  | ibuf (i : Fin 256)
  | obuf (i : Fin 256)
  | reserved
  deriving DecidableEq, Repr

/-- The register map of spec/10_state.md section 3, by the number of the address (R66, R67, R68). -/
def locateNat (n : Nat) : Location :=
  if n = 0x000 then .cmd
  else if n = 0x001 then .status
  else if n = 0x002 then .state
  else if n = 0x003 then .errStage
  else if n = 0x004 then .errInfoHi
  else if n = 0x005 then .errInfoLo
  else if n = 0x006 then .outLenHi
  else if n = 0x007 then .outLenLo
  else if n = 0x008 then .inLenHi
  else if n = 0x009 then .inLenLo
  else if n = 0x00A then .advVidHi
  else if n = 0x00B then .advVidLo
  else if n = 0x00C then .expVidHi
  else if n = 0x00D then .expVidLo
  else if n = 0x00E then .keyLen
  else if 0x010 ≤ n ∧ n < 0x020 then .key (Fin.ofNat _ (n - 0x010))
  else if 0x020 ≤ n ∧ n < 0x028 then .record (Fin.ofNat _ (n - 0x020))
  else if 0x100 ≤ n ∧ n < 0x200 then .ibuf (Fin.ofNat _ (n - 0x100))
  else if 0x200 ≤ n ∧ n < 0x300 then .obuf (Fin.ofNat _ (n - 0x200))
  else .reserved

/-- What stands at an address. -/
def locate (a : Addr) : Location := locateNat a.toNat

/-- The byte a host read of a location returns (R66). CMD and KEY are write-only and read 0x00 (R23, R33), as
reserved addresses do (R37). -/
def readLocation (l : Location) (b : Block) : Byte :=
  match l with
  | .cmd => 0x00
  | .status => b.status
  | .state => stateByte b
  | .errStage => b.errStage
  | .errInfoHi => hiByte b.errInfo
  | .errInfoLo => loByte b.errInfo
  | .outLenHi => hiByte b.outLen
  | .outLenLo => loByte b.outLen
  | .inLenHi => hiByte b.inLen
  | .inLenLo => loByte b.inLen
  | .advVidHi => hiByte b.advVid
  | .advVidLo => loByte b.advVid
  | .expVidHi => hiByte b.expVid
  | .expVidLo => loByte b.expVid
  | .keyLen => b.keyLen
  | .key _ => 0x00
  | .record i => b.record[i]
  | .ibuf i => b.ibuf.read i
  | .obuf i => b.obuf.read i
  | .reserved => 0x00

/-- A write that the configuration lock blocks (R38): ignored while CFG_LOCK = 1. -/
def unlessLocked (b : Block) (written : Block) : Block := if b.cfgLock = true then b else written

/-- The block after a host write of `v` at a location other than CMD (R67): read-only registers and reserved
addresses ignore it, and locked configuration registers do. A write to CMD stores nothing (R23); the command it
starts is `performCommand`'s. -/
def writeLocation (l : Location) (v : Byte) (b : Block) : Block :=
  match l with
  | .cmd => b
  | .status => b
  | .state => b
  | .errStage => b
  | .errInfoHi => b
  | .errInfoLo => b
  | .outLenHi => b
  | .outLenLo => b
  | .inLenHi => { b with inLen := setHi b.inLen v }
  | .inLenLo => { b with inLen := setLo b.inLen v }
  | .advVidHi => { b with advVid := setHi b.advVid v }
  | .advVidLo => { b with advVid := setLo b.advVid v }
  | .expVidHi => unlessLocked b { b with expVid := setHi b.expVid v }
  | .expVidLo => unlessLocked b { b with expVid := setLo b.expVid v }
  | .keyLen => unlessLocked b { b with keyLen := v }
  | .key i => unlessLocked b { b with key := b.key.set i v }
  | .record _ => b
  | .ibuf i => { b with ibuf := b.ibuf.write i v }
  | .obuf _ => b
  | .reserved => b

/-- `HostRead(a)` (R66). -/
def hostRead (a : Addr) (b : Block) : Byte := readLocation (locate a) b

/-- `HostWrite(a, v)` at an address other than CMD's (R67). -/
def hostWrite (a : Addr) (v : Byte) (b : Block) : Block := writeLocation (locate a) v b

/-! ### How a command ends -/

/-- The FAILURE block of CONFIG and of an illegal command (R241): nothing. -/
def failNothing (b : Block) : Block := b

/-- The FAILURE block of DECRYPT and UNPAD (R241): `OUT_LEN <- 0`. -/
def failOutput (b : Block) : Block := { b with outLen := 0x0000 }

/-- The FAILURE block of PARSE and DECODE (R241): `REC[0..8) <- 0; REC_VALID <- 0`. -/
def failRecord (b : Block) : Block := { b with record := zeroRecord, recValid := false }

/-- STATUS, ERR_STAGE and ERR_INFO, written together when a command ends. -/
def setOutcome (k : Kind) (stage : Stage) (info : Half) (b : Block) : Block :=
  { b with status := code k, errStage := stageCode stage, errInfo := info }

/-- `raise K(stage, info)` (R11, R241), the block's whole exception entry (R246): the command's FAILURE block, then
STATUS, ERR_STAGE and ERR_INFO. There is no return from it (R247): the next command runs normally. -/
def raise (failure : Block → Block) (k : Kind) (stage : Stage) (info : Half) (b : Block) : Block :=
  setOutcome k stage info (failure b)

/-- `succeed()` (R11). -/
def succeed (b : Block) : Block := setOutcome .ok .none 0x0000 b

/-! ### The results of a command -/

/-- `MemWrite(OBUF, 0, n, s); OUT_LEN <- n`, `n` being the length of `s` (R36). -/
def writeOutput (s : ByteString) (b : Block) : Block :=
  { b with obuf := memWrite b.obuf 0 s, outLen := half s.length }

/-- `REC[0..8) <- s; REC_VALID <- 1` (R34). -/
def writeRecord (s : ByteString) (b : Block) : Block :=
  { b with record := recordBytes s, recValid := true }

/-! ### The machine around the block -/

/-- The machine with another block. -/
def State.withBlock (s : State) (b : Block) : State := { s with block := b }

/-- The machine with one more byte returned to the host (R66). -/
def State.returnByte (s : State) (v : Byte) : State := { s with reads := s.reads ++ [v] }

/-- The reset event (R270): every field of R20 to its value of R40. What the host has issued or read is not the
block's, and stays. -/
def resetBlock (s : State) : State := s.withBlock Block.reset

/-- Taking the next host event (R70): the head of `pending`, and the machine without it. -/
def takeEvent (s : State) : Option (HostEvent × State) :=
  match s.pending with
  | [] => none
  | e :: rest => some (e, { s with pending := rest })

end Sys2Proof.Machine
end

