-- ==== Sys2Proof/Machine/Decrypt.lean ====
section
/-! DEFINITION. DECRYPT and the source's `decryptBlocks` (spec/41_aes_decrypt.md R130, R131). -/

namespace Sys2Proof.Machine

/-- DECRYPT on the block (R130), its checks in the order of R244. -/
def decryptCommand (b : Block) : Block :=
  let n := operandLength b
  if b.cfgLock = false then raise failOutput .notConfigured .interface 0x0000 b
  else if b.keyOk = false then raise failOutput .invalidKeySize .decrypt (zext16 b.keyLen) b
  else if isNotBlocks n then raise failOutput .invalidCiphertextLength .decrypt (half n) b
  else if Config.bufferBytes < n then raise failOutput .lengthOverflow .interface (half n) b
  else succeed (writeOutput (ecbDecrypt (keyString b) (operand b n)) b)

/-- DECRYPT (R130). -/
def execDecrypt (s : State) : Host.Outcome State Fault Refusal := .next (s.withBlock (decryptCommand s.block))

/-- `decryptBlocks(C, K)` (R131), on a key of any length. -/
def decryptBlocks (c key : ByteString) : Result ByteString :=
  if key.length ≠ Config.keyBytes then .err .invalidKeySize key.length
  else if isNotBlocks c.length then .err .invalidCiphertextLength c.length
  else .ok (ecbDecrypt key c)

end Sys2Proof.Machine
end

