-- ==== Sys2Proof/Machine/Parse.lean ====
section
/-! DEFINITION. PARSE, the source's `parse` and the telemetry record (spec/43_parse.md R190 to R196). -/

namespace Sys2Proof.Machine

/-- PARSE on the block (R190): it rejects a length other than 8 and nothing else (R196). -/
def parseCommand (b : Block) : Block :=
  let n := operandLength b
  if n = Config.bodyBytes then succeed (writeRecord (operand b Config.bodyBytes) b)
  else raise failRecord .unexpectedBodyLength .parse (half n) b

/-- PARSE (R190): it needs no configuration. -/
def execParse (s : State) : Host.Outcome State Fault Refusal := .next (s.withBlock (parseCommand s.block))

/-- The telemetry record (R191): the values the REC registers denote. Temperatures are exact rationals, in degrees
Celsius (R194); the block computes no floating-point value. -/
structure TelemetryRecord where
  deviceId : Nat
  versionId : Nat
  flags : Byte
  i2cFail : Bool
  batLow : Bool
  tmpFail : Bool
  tmpX100 : Int
  cpuX100 : Int
  temperatureC : Rat
  cpuTemperatureC : Rat
  batteryPct : Int
  deriving DecidableEq, Repr

/-- The record of a body, field by field (R191 to R195). -/
def telemetry (b : ByteString) : TelemetryRecord where
  deviceId := (byteAt b 0).toNat
  versionId := (byteAt b 1).toNat
  flags := byteAt b 2
  i2cFail := (byteAt b 2).getLsbD 0
  batLow := (byteAt b 2).getLsbD 1
  tmpFail := (byteAt b 2).getLsbD 2
  tmpX100 := sint16 (be16 (byteAt b 3) (byteAt b 4))
  cpuX100 := sint16 (be16 (byteAt b 5) (byteAt b 6))
  temperatureC := (sint16 (be16 (byteAt b 3) (byteAt b 4)) : Rat) / 100
  cpuTemperatureC := (sint16 (be16 (byteAt b 5) (byteAt b 6)) : Rat) / 100
  batteryPct := sint8 (byteAt b 7)

/-- `parse(B)` (R191). -/
def parse (b : ByteString) : Result TelemetryRecord :=
  if b.length = Config.bodyBytes then .ok (telemetry b) else .err .unexpectedBodyLength b.length

/-- The body a record was read from, "taking the two's-complement bytes" (R191). -/
def recordBody (r : TelemetryRecord) : ByteString :=
  [BitVec.ofNat 8 r.deviceId, BitVec.ofNat 8 r.versionId, r.flags,
   hiByte (BitVec.ofInt 16 r.tmpX100), loByte (BitVec.ofInt 16 r.tmpX100),
   hiByte (BitVec.ofInt 16 r.cpuX100), loByte (BitVec.ofInt 16 r.cpuX100),
   BitVec.ofInt 8 r.batteryPct]

/-- The record that the REC registers hold (R34). -/
def recordOf (b : Block) : TelemetryRecord := telemetry b.record.toList

end Sys2Proof.Machine
end

