-- ==== Sys2Proof/Machine/Unpad.lean ====
section
/-! DEFINITION. UNPAD and the source's `unpad`, PKCS#7 with block size 16 (spec/42_unpad.md R170, R171). -/

namespace Sys2Proof.Machine

/-- The padding count `p = P[len(P) - 1]`, unsigned 0..255 (R170, R171). -/
def padCount (p : ByteString) : Nat := (byteAt p (p.length - 1)).toNat

/-- `p < 1 or p > 16` (R170, R171). -/
def badPadValue (p : ByteString) : Bool := padCount p < 1 || 16 < padCount p

/-- Whether some byte of the last `p` bytes is not `p` (R170, R171). -/
def badPadBytes (p : ByteString) : Bool := (p.drop (p.length - padCount p)).any (fun v => v.toNat != padCount p)

/-- The message `P[0 .. len(P) - p)` (R88). -/
def unpadded (p : ByteString) : ByteString := p.take (p.length - padCount p)

/-- UNPAD on the block (R170), its checks in the order of R244. -/
def unpadCommand (b : Block) : Block :=
  let n := operandLength b
  if isNotBlocks n then raise failOutput .invalidPaddingSize .unpad (half n) b
  else if Config.bufferBytes < n then raise failOutput .lengthOverflow .interface (half n) b
  else
    let p := operand b n
    if badPadValue p then raise failOutput .invalidPaddingValue .unpad (half n) b
    else if badPadBytes p then raise failOutput .invalidPaddingBytes .unpad (half n) b
    else succeed (writeOutput (unpadded p) b)

/-- UNPAD (R170): it needs no configuration. -/
def execUnpad (s : State) : Host.Outcome State Fault Refusal := .next (s.withBlock (unpadCommand s.block))

/-- `unpad(P)` (R171). -/
def unpad (p : ByteString) : Result ByteString :=
  if isNotBlocks p.length then .err .invalidPaddingSize p.length
  else if badPadValue p then .err .invalidPaddingValue p.length
  else if badPadBytes p then .err .invalidPaddingBytes p.length
  else .ok (unpadded p)

end Sys2Proof.Machine
end

