-- ==== Sys2Proof/Machine/Beacon.lean ====
section
/-! DEFINITION. DECODE, the beacon pipeline, and the source's `decode` (spec/44_decode.md R210 to R215). -/

namespace Sys2Proof.Machine

/-- Ciphertext extraction (R213): a 16-byte payload whole, an 18-byte one without its 2-byte header. -/
def extractCiphertext (m : Memory) (n : Nat) : Option ByteString :=
  if n = Config.blockBytes then some (memRead m 0 Config.blockBytes)
  else if n = Config.headerBytes + Config.blockBytes then some (memRead m Config.headerBytes Config.blockBytes)
  else none

/-- The last stages of DECODE, on the 16-byte plaintext (R210): unpadding, then parsing. -/
def decodePlaintext (p : ByteString) (b : Block) : Block :=
  if badPadValue p then raise failRecord .invalidPaddingValue .unpad (half Config.blockBytes) b
  else if badPadBytes p then raise failRecord .invalidPaddingBytes .unpad (half Config.blockBytes) b
  else if Config.blockBytes - padCount p = Config.bodyBytes then
    succeed (writeRecord (p.take Config.bodyBytes) b)
  else raise failRecord .unexpectedBodyLength .parse (half (Config.blockBytes - padCount p)) b

/-- DECODE on the block (R210): filter, extraction, decryption, unpadding, parsing, failing at the first stage that
fails (R214). The plaintext is local to the command (R215). -/
def decodeCommand (b : Block) : Block :=
  if b.cfgLock = false then raise failRecord .notConfigured .interface 0x0000 b
  else if b.advVid ≠ b.expVid then raise failRecord .notApplicable .filter 0x0000 b
  else
    match extractCiphertext b.ibuf (operandLength b) with
    | none => raise failRecord .malformedLength .extract (half (operandLength b)) b
    | some c =>
      if b.keyOk = false then raise failRecord .invalidKeySize .decrypt (zext16 b.keyLen) b
      else decodePlaintext (ecbDecrypt (keyString b) c) b

/-- DECODE (R210). -/
def execDecode (s : State) : Host.Outcome State Fault Refusal := .next (s.withBlock (decodeCommand s.block))

/-- The ciphertext of a payload, by its length alone (R86, R213). -/
def payloadCiphertext (y : ByteString) : Result ByteString :=
  if y.length = Config.headerBytes + Config.blockBytes then .ok ((y.drop Config.headerBytes).take Config.blockBytes)
  else if y.length = Config.blockBytes then .ok y
  else .err .malformedLength y.length

/-- `decode(V, Y, E, K)` (R211). -/
def beaconDecode (vendorId : Half) (payload : ByteString) (expectedVendorId : Half) (key : ByteString) :
    Result TelemetryRecord :=
  if vendorId ≠ expectedVendorId then .notApplicable
  else andThen (payloadCiphertext payload) fun c =>
    andThen (decryptBlocks c key) fun p =>
      andThen (unpad p) fun body => parse body

/-- The stage of the function that returned an error of `beaconDecode` (R211, R243). -/
def stageOfError : Kind → Stage
  | .malformedLength => .extract
  | .invalidKeySize => .decrypt
  | .invalidCiphertextLength => .decrypt
  | .invalidPaddingSize => .unpad
  | .invalidPaddingValue => .unpad
  | .invalidPaddingBytes => .unpad
  | .unexpectedBodyLength => .parse
  | .notApplicable => .filter
  | .none => .none
  | .ok => .none
  | .illegalCommand => .interface
  | .notConfigured => .interface
  | .alreadyConfigured => .interface
  | .lengthOverflow => .interface

/-- How a result of `beaconDecode` shows in the block (R211): `Ok(R)` is STATUS OK and REC the body of R,
`NotApplicable` is STATUS 0x02, and `Err(K, L)` is STATUS `code(K)`, ERR_INFO `L` and the stage's ERR_STAGE. -/
def showDecodeResult (r : Result TelemetryRecord) (b : Block) : Block :=
  match r with
  | .ok t => succeed (writeRecord (recordBody t) b)
  | .err k info => raise failRecord k (stageOfError k) (half info) b
  | .notApplicable => raise failRecord .notApplicable .filter 0x0000 b

/-- The configured key as a byte string, `KEY[0..KEY_LEN)` (R211). KEY has 16 bytes; a longer KEY_LEN stands for a key
of that length that the block never reads ("When KEY_LEN ≠ 16 the contents are never used", R33). Log 12. -/
def configuredKey (b : Block) : ByteString := (keyString b ++ bytes 255 0x00).take b.keyLen.toNat

end Sys2Proof.Machine
end

