-- ==== Sys2Proof/Machine/Control.lean ====
section
/-! DEFINITION. The control commands NOP and CONFIG, and the illegal command (spec/40_control.md R110 to R112). -/

namespace Sys2Proof.Machine

/-- NOP (R110): "No state changes". -/
def execNop (s : State) : Host.Outcome State Fault Refusal := .next s

/-- CONFIG on the block (R111). CFG_LOCK is set before the key length is judged, and stays set when it is wrong. -/
def configure (b : Block) : Block :=
  if b.cfgLock = true then raise failNothing .alreadyConfigured .interface 0x0000 b
  else if b.keyLen.toNat = Config.keyBytes then succeed { b with cfgLock := true, keyOk := true }
  else raise failNothing .invalidKeySize .config (zext16 b.keyLen) { b with cfgLock := true, keyOk := false }

/-- CONFIG (R111). -/
def execConfig (s : State) : Host.Outcome State Fault Refusal := .next (s.withBlock (configure s.block))

/-- An illegal command on the block (R112): ERR_INFO is the command byte, and nothing else changes. -/
def illegal (op : Byte) (b : Block) : Block := raise failNothing .illegalCommand .interface (zext16 op) b

/-- An illegal command (R112): the block takes its outcome and goes on. -/
def execIllegal (op : Byte) (s : State) : Host.Outcome State Fault Refusal := .next (s.withBlock (illegal op s.block))

end Sys2Proof.Machine
end

