-- ==== Sys2Proof/Machine/HostPort.lean ====
section
/-! DEFINITION. The host transactions HOST_RD and HOST_WR, and the command a write to CMD performs
(spec/20_memory.md R66, R67; spec/40_control.md R113). -/

namespace Sys2Proof.Machine

/-- HOST_RD (R66): the byte goes to the host, and the block keeps its state (R65). -/
def execHostRd (addr : Addr) (s : State) : Host.Outcome State Fault Refusal := .next (s.returnByte (hostRead addr s.block))

/-- Performing command `op` (R113). -/
def performCommand (op : Byte) (s : State) : Host.Outcome State Fault Refusal :=
  if op = 0x00 then execNop s
  else if op = 0x01 then execConfig s
  else if op = 0x02 then execDecrypt s
  else if op = 0x03 then execUnpad s
  else if op = 0x04 then execParse s
  else if op = 0x05 then execDecode s
  else execIllegal op s

/-- HOST_WR (R67): at CMD it performs a command, elsewhere it stores its byte where that is allowed. -/
def execHostWr (addr : Addr) (data : Byte) (s : State) : Host.Outcome State Fault Refusal :=
  match locate addr with
  | .cmd => performCommand data s
  | l => .next (s.withBlock (writeLocation l data s.block))

/-- The block address a host bus address reaches (R68): `FPSA_BASE + a` reaches `a`, and other addresses are not the
block's. Log 9. -/
def blockAddress (busAddress : Nat) : Option Addr :=
  if Config.fpsaBase ≤ busAddress ∧ busAddress < Config.fpsaBase + 2 ^ 10 then
    some (BitVec.ofNat 10 (busAddress - Config.fpsaBase))
  else none

end Sys2Proof.Machine
end

