-- ==== Sys2Proof/Machine/Dispatch.lean ====
section
/-! DEFINITION. The meaning of every instruction, one arm a constructor. -/

namespace Sys2Proof.Machine

def exec (i : Instr) (s : State) : Host.Outcome State Fault Refusal :=
  match i with
  | .nop => Sys2Proof.Machine.execNop s
  | .config => Sys2Proof.Machine.execConfig s
  | .decrypt => Sys2Proof.Machine.execDecrypt s
  | .unpad => Sys2Proof.Machine.execUnpad s
  | .parse => Sys2Proof.Machine.execParse s
  | .decode => Sys2Proof.Machine.execDecode s
  | .hostRd addr => Sys2Proof.Machine.execHostRd addr s
  | .hostWr addr data => Sys2Proof.Machine.execHostWr addr data s

end Sys2Proof.Machine
end

