-- ==== Sys2Proof/Machine/Events.lean ====
section
/-! DEFINITION. What one host event does (spec/00_scope.md R8). -/

namespace Sys2Proof.Machine

/-- One host event (R8): a transaction is decoded and its instruction run, a command byte that the decoder rejects
takes ILLEGAL_COMMAND (R112), and the reset resets the block (R270). -/
def runEvent (e : HostEvent) (s : State) : Host.Outcome State Fault Refusal :=
  match e with
  | .reset => .next (resetBlock s)
  | .tx t =>
    match decode t with
    | .ok i => exec i s
    | .error (.illegalCommand op) => execIllegal op s

end Sys2Proof.Machine
end

