-- ==== Sys2Proof/Machine/Step.lean ====
section
/-! DEFINITION. One step of the machine (spec/00_scope.md R8): the next host event, taken whole. -/

namespace Sys2Proof.Machine

/-- One step: the next event the host has issued, in issue order (R70); with none the block is idle and holds its
state (R256). Log 3. -/
def step (s : State) : Host.Outcome State Fault Refusal :=
  match takeEvent s with
  | none => .next s
  | some (e, rest) => runEvent e rest

/-- The machine with the transaction of an opcode-table word issued next (the host's question). A word that is no
transaction issues nothing. Logs 4 and 5. -/
def State.withFetchWord (s : State) (nbits w : Nat) : State :=
  match txOfWord nbits w with
  | some t => { s with pending := .tx t :: s.pending }
  | none => s

end Sys2Proof.Machine
end

