-- ==== Sys2Proof/Machine/Harness.lean ====
section
/-! DEFINITION. The test harness, not commands of the block: the forward cipher (spec/41_aes_decrypt.md R144) and the
padding (spec/42_unpad.md R174). -/

namespace Sys2Proof.Machine

/-- `SubBytes` (R144). -/
def subBytes (s : AesState) : AesState := mapState sbox s

/-- `ShiftRows`: `s'[r][c] = s[r][(c + r) mod 4]` (R144). -/
def shiftRows (s : AesState) : AesState :=
  ⟨⟨s.col0.row0, s.col1.row1, s.col2.row2, s.col3.row3⟩,
   ⟨s.col1.row0, s.col2.row1, s.col3.row2, s.col0.row3⟩,
   ⟨s.col2.row0, s.col3.row1, s.col0.row2, s.col1.row3⟩,
   ⟨s.col3.row0, s.col0.row1, s.col1.row2, s.col2.row3⟩⟩

/-- `MixColumns` on one column (R144). -/
def mixColumn (a : Column) : Column :=
  ⟨mul 0x02 a.row0 ^^^ mul 0x03 a.row1 ^^^ a.row2 ^^^ a.row3,
   a.row0 ^^^ mul 0x02 a.row1 ^^^ mul 0x03 a.row2 ^^^ a.row3,
   a.row0 ^^^ a.row1 ^^^ mul 0x02 a.row2 ^^^ mul 0x03 a.row3,
   mul 0x03 a.row0 ^^^ a.row1 ^^^ a.row2 ^^^ mul 0x02 a.row3⟩

/-- `MixColumns` (R144). -/
def mixColumns (s : AesState) : AesState :=
  ⟨mixColumn s.col0, mixColumn s.col1, mixColumn s.col2, mixColumn s.col3⟩

/-- The full rounds of the forward cipher: rounds 1 to `n` (R144). -/
def forwardRounds (w : List Column) : Nat → AesState → AesState
  | 0, s => s
  | n + 1, s => addRoundKey (mixColumns (shiftRows (subBytes (forwardRounds w n s)))) w (n + 1)

/-- `Cipher` on the state, under a key schedule (R144). -/
def cipherState (w : List Column) (s : AesState) : AesState :=
  addRoundKey (shiftRows (subBytes (forwardRounds w 9 (addRoundKey s w 0)))) w 10

/-- `Cipher(K, P)` for one block (R144). -/
def cipher (key block : ByteString) : ByteString := fromState (cipherState (keyExpansion key) (toState block))

/-- `ecbEncrypt(K, P)` (R144). -/
def ecbEncrypt (key p : ByteString) : ByteString :=
  (List.range (p.length / 16)).flatMap (fun i => cipher key (blockOf p i))

/-- How many padding bytes `pad` appends: 1 to 16 (R174). -/
def padLength (m : ByteString) : Nat := 16 - m.length % 16

/-- `pad(M) = M ++ bytes(p, p)` (R174). -/
def pad (m : ByteString) : ByteString := m ++ bytes (padLength m) (BitVec.ofNat 8 (padLength m))

end Sys2Proof.Machine
end

