-- ==== Sys2Proof/Safety.lean ====
section
/-! DEFINITION. What holds of every state a run reaches, in the terms claims use: the invariants the spec's rules give
the registers. -/

namespace Sys2Proof.Machine

/-- The STATUS and ERR_STAGE values that stand together, STATUS by STATUS (spec/10_state.md R24, R26): no other STATUS
is ever held, and no other ERR_STAGE with it. -/
def legalOutcomes : List (Byte × Byte) :=
  [(0x00, 0x00), (0x01, 0x00), (0x02, 0x01), (0x10, 0x02), (0x11, 0x03), (0x11, 0x06), (0x12, 0x03), (0x13, 0x04),
   (0x14, 0x04), (0x15, 0x04), (0x16, 0x05), (0x20, 0x07), (0x21, 0x07), (0x22, 0x07), (0x23, 0x07)]

/-- The 14 legal STATUS codes (R24). -/
def legalStatus : List Byte :=
  [0x00, 0x01, 0x02, 0x10, 0x11, 0x12, 0x13, 0x14, 0x15, 0x16, 0x20, 0x21, 0x22, 0x23]

/-- STATUS and ERR_STAGE hold a legal pair, and ERR_INFO is 0x0000 after a success and before the first command
(R24, R26, R27). -/
abbrev Block.outcomeLegal (b : Block) : Prop :=
  (b.status, b.errStage) ∈ legalOutcomes ∧ (b.errStage = 0x00 → b.errInfo = 0x0000)

/-- "KEY_OK = 1 implies CFG_LOCK = 1 in every reachable state" (R25), and under the lock KEY_OK says whether the
locked KEY_LEN is 16 (R25, R38, R111). -/
abbrev Block.configLegal (b : Block) : Prop :=
  (b.keyOk = true → b.cfgLock = true) ∧ (b.cfgLock = true → (b.keyOk = true ↔ b.keyLen = 16))

/-- "When REC_VALID = 0 all eight bytes are 0x00" (R34). -/
abbrev Block.recordLegal (b : Block) : Prop := b.recValid = false → b.record = Vector.replicate 8 0x00

/-- OUT_LEN "is always in 0..256" (R28). -/
abbrev Block.lengthLegal (b : Block) : Prop := b.outLen.toNat ≤ 256

/-- Both buffers are in canonical form. -/
abbrev Block.buffersLegal (b : Block) : Prop := b.ibuf.wf = true ∧ b.obuf.wf = true

/-- STATUS = NONE "holds only from reset until the first non-NOP command completes" (R41): while it stands, nothing
a command writes has been written. -/
abbrev Block.noneLegal (b : Block) : Prop :=
  b.status = 0x00 → b.cfgLock = false ∧ b.keyOk = false ∧ b.recValid = false ∧ b.outLen = 0x0000 ∧ b.obuf = []

/-- The invariant of the block. -/
abbrev Block.Inv (b : Block) : Prop :=
  b.outcomeLegal ∧ b.configLegal ∧ b.recordLegal ∧ b.lengthLegal ∧ b.buffersLegal ∧ b.noneLegal

/-- The invariant of the machine: the block's. `pending` and `reads` may hold anything. -/
abbrev State.Inv (s : State) : Prop := s.block.Inv

/-- The states a run from reset reaches, whatever the host issues and whenever it does. -/
inductive Reachable : State → Prop where
  | reset : Reachable State.reset
  /-- The host issues one more event (R8). -/
  | issued {s : State} (e : HostEvent) : Reachable s → Reachable { s with pending := s.pending ++ [e] }
  /-- The machine takes a step. -/
  | stepped {s t : State} : Reachable s → step s = .next t → Reachable t

/-- A block that a step may leave behind without a reset: its configuration is what it was once locked (R38). -/
abbrev sameConfiguration (b c : Block) : Prop :=
  c.cfgLock = b.cfgLock ∧ c.keyOk = b.keyOk ∧ c.expVid = b.expVid ∧ c.keyLen = b.keyLen ∧ c.key = b.key

/-- Two machines that agree on everything the host can see without running a command, but perhaps not on KEY. -/
abbrev differOnlyInKey (s t : State) : Prop := ∃ k : Vector Byte 16, t = s.withBlock { s.block with key := k }

end Sys2Proof.Machine
end

