-- ==== Sys2Proof/Certificates/Slice0/Obligations.lean ====
section
/-! DEFINITION. The statements for the provers, from the numbered rules of spec/. -/

open Sys2Proof Sys2Proof.Machine

namespace Sys2Proof.Claims

/-- A block with the three registers that say how a command ended. -/
def ended (b : Block) (status stage : Byte) (info : Half) : Block :=
  { b with status := status, errStage := stage, errInfo := info }

/-- A block with OUT_LEN = 0: no output. -/
def outputCleared (b : Block) : Block := { b with outLen := 0x0000 }

/-- A block with REC all zero and REC_VALID = 0: no record. -/
def recordCleared (b : Block) : Block :=
  { b with record := #v[0x00, 0x00, 0x00, 0x00, 0x00, 0x00, 0x00, 0x00], recValid := false }

/-- Every register and buffer that only the host writes, KEY among them, is the same. -/
def sameOperands (b c : Block) : Prop :=
  c.inLen = b.inLen ∧ c.advVid = b.advVid ∧ c.expVid = b.expVid ∧ c.keyLen = b.keyLen ∧ c.key = b.key ∧
    c.ibuf = b.ibuf

/-- Two blocks agree on everything DECODE's results are a function of (R217). -/
def sameDecodeOperands (b c : Block) : Prop :=
  c.advVid = b.advVid ∧ c.inLen = b.inLen ∧ (∀ i < min b.inLen.toNat 256, c.ibuf.read i = b.ibuf.read i) ∧
    c.cfgLock = b.cfgLock ∧ c.expVid = b.expVid ∧ c.keyOk = b.keyOk ∧ c.keyLen = b.keyLen ∧ c.key = b.key

/-- Two blocks show the same result of a DECODE. -/
def sameDecodeResult (b c : Block) : Prop :=
  c.status = b.status ∧ c.errStage = b.errStage ∧ c.errInfo = b.errInfo ∧ c.record = b.record ∧
    c.recValid = b.recValid

/-- The event a step takes is a write of `op` to CMD. -/
def takesCommand (s : State) (op : Byte) : Prop := s.pending.head? = some (.tx (.write 0x000 op))

/-- The event a step takes is the reset. -/
def takesReset (s : State) : Prop := s.pending.head? = some .reset

end Sys2Proof.Claims

open Sys2Proof.Claims

/-! ### Encoding -/

/-- R81: the opcode map, and its decoder total on every byte. -/
def Obligations.OpcodeMapTotal : Prop :=
  decodeCmd 0x00 = .ok .nop ∧ decodeCmd 0x01 = .ok .config ∧ decodeCmd 0x02 = .ok .decrypt ∧
  decodeCmd 0x03 = .ok .unpad ∧ decodeCmd 0x04 = .ok .parse ∧ decodeCmd 0x05 = .ok .decode ∧
  ∀ op : Byte, 0x05 < op → decodeCmd op = .error (.illegalCommand op)

/-- A few words written out from R81 and R83 decode to their instructions. -/
def Obligations.SampleWordsDecode : Prop :=
  decode (.write 0b0000000000 0b00000001) = .ok .config ∧ decode (.write 0b0000000000 0b00000101) = .ok .decode ∧
  decode (.read 0b0000000001) = .ok (.hostRd 0x001) ∧
  decode (.write 0b0100000000 0b01101001) = .ok (.hostWr 0x100 0x69)

/-- R80, R81, R83: a well-formed instruction's transaction, and its word, decode to it. The layout of the word of a
host transaction is the model's (log 5). -/
def Obligations.DecodeEncodeRoundTrip : Prop :=
  ∀ i : Instr, i.wellFormed = true →
    decode (encode i) = .ok i ∧ decodeTableWord (encodeTableWord i).1 (encodeTableWord i).2 = some i

/-- R81, R82, R83: every transaction is the encoding of exactly one well-formed instruction, or writes an illegal
command byte, which the decoder rejects by name. -/
def Obligations.DecodeAcceptsOnlyEncodings : Prop :=
  ∀ t : HostTx,
    (∃! i : Instr, i.wellFormed = true ∧ encode i = t ∧ decode t = .ok i) ∨
    (∃ op : Byte, 0x05 < op ∧ t = .write 0x000 op ∧ decode t = .error (.illegalCommand op))

/-! ### Steps -/

/-- A step whose event decodes to an instruction runs it, the event taken. -/
def Obligations.StepRunsDecodedInstruction : Prop :=
  ∀ (s : State) (t : HostTx) (rest : List HostEvent) (i : Instr),
    s.pending = .tx t :: rest → i.wellFormed = true → decode t = .ok i →
      step s = exec i { s with pending := rest }

/-- R112: an illegal command, taken by a step, or performed by a host write. -/
def Obligations.IllegalCommandOutcome : Prop :=
  ∀ (s : State) (op : Byte), 0x05 < op →
    (∀ rest, s.pending = .tx (.write 0x000 op) :: rest →
      step s = .next { block := ended s.block 0x20 0x07 (BitVec.ofNat 16 op.toNat), pending := rest,
                       reads := s.reads }) ∧
    exec (.hostWr 0x000 op) s = .next (s.withBlock (ended s.block 0x20 0x07 (BitVec.ofNat 16 op.toNat)))

/-- R40: what the reset event, and the machine right after reset, leave in every field of the block. That `pending`
and `reads` stay as they are is the model's choice (logs 1, 2). -/
def Obligations.ResetValues : Prop :=
  (∀ (s : State) (rest : List HostEvent), s.pending = .reset :: rest →
    step s = .next { block := State.reset.block, pending := rest, reads := s.reads }) ∧
  State.reset.block =
    { status := 0x00, cfgLock := false, keyOk := false, recValid := false, errStage := 0x00, errInfo := 0x0000,
      outLen := 0x0000, inLen := 0x0000, advVid := 0x0000, expVid := 0x0000, keyLen := 0x00,
      key := #v[0, 0, 0, 0, 0, 0, 0, 0, 0, 0, 0, 0, 0, 0, 0, 0], record := #v[0, 0, 0, 0, 0, 0, 0, 0],
      ibuf := State.reset.block.ibuf, obuf := State.reset.block.obuf } ∧
  ∀ i : Nat, State.reset.block.ibuf.read i = 0x00 ∧ State.reset.block.obuf.read i = 0x00

/-- R256 and log 3 (the model's step with nothing issued): the block is idle and holds its state. -/
def Obligations.IdleStepHoldsState : Prop := ∀ s : State, s.pending = [] → step s = .next s

/-- R70, R246, R251, R256: whatever the host has issued, a step answers a next state, and takes the next event if there
is one. That a step with none is idle is the model's choice (log 3), and that the events and the reads stand in the
state is too (logs 1, 2). -/
def Obligations.StepAlwaysGoesOn : Prop :=
  ∀ s : State, ∃ t, step s = .next t ∧ t.pending = s.pending.tail ∧
    (t.reads = s.reads ∨ ∃ v, t.reads = s.reads ++ [v])

/-! ### Invariants -/

/-- The invariant holds right after reset. -/
def Obligations.InvariantAtReset : Prop := State.reset.Inv

/-- Every step keeps the invariant: STATUS and ERR_STAGE stay a legal pair with ERR_INFO 0 after a success (R24, R26,
R27), KEY_OK stays under the lock and says whether KEY_LEN is 16 (R25, R38), REC is zero without REC_VALID (R34),
OUT_LEN stays in 0..256 (R28), the buffers keep their canonical form, and STATUS = NONE means nothing has been written
(R41). -/
def Obligations.InvariantKeptByEveryStep : Prop :=
  ∀ s t : State, s.Inv → step s = .next t → t.Inv

/-- R38: the configuration lock. -/
def Obligations.ConfigurationLock : Prop :=
  (∀ (s : State) (a : Addr) (v : Byte), s.block.cfgLock = true → 0x00C ≤ a → a < 0x020 →
    exec (.hostWr a v) s = .next s) ∧
  (∀ s t : State, s.block.cfgLock = true → ¬ takesReset s → step s = .next t → sameConfiguration s.block t.block) ∧
  (∀ s : State, takesReset s → ∃ t, step s = .next t ∧ t.block.cfgLock = false)

/-- R24, R34, R36: only a command or a reset writes STATUS; only PARSE, DECODE or a reset writes REC and REC_VALID;
only DECRYPT, UNPAD or a reset writes OBUF and OUT_LEN. -/
def Obligations.WhoWritesTheResults : Prop :=
  ∀ s t : State, step s = .next t →
    (t.block.status ≠ s.block.status ∨ t.block.errStage ≠ s.block.errStage ∨ t.block.errInfo ≠ s.block.errInfo →
      takesReset s ∨ ∃ op, op ≠ 0x00 ∧ takesCommand s op) ∧
    (t.block.record ≠ s.block.record ∨ t.block.recValid ≠ s.block.recValid →
      takesReset s ∨ takesCommand s 0x04 ∨ takesCommand s 0x05) ∧
    (t.block.obuf ≠ s.block.obuf ∨ t.block.outLen ≠ s.block.outLen →
      takesReset s ∨ takesCommand s 0x02 ∨ takesCommand s 0x03)

/-- R21, R29, R30, R31, R32, R35: no command writes what the host writes, nor the port. -/
def Obligations.CommandsKeepTheirOperands : Prop :=
  ∀ (i : Instr), i ∈ [Instr.nop, .config, .decrypt, .unpad, .parse, .decode] → ∀ s : State,
    ∃ t, exec i s = .next t ∧ sameOperands s.block t.block ∧ t.pending = s.pending ∧ t.reads = s.reads

/-- R41: STATUS = NONE holds only until the first non-NOP command. -/
def Obligations.NoneOnlyBeforeTheFirstCommand : Prop :=
  (∀ (i : Instr), i ∈ [Instr.config, .decrypt, .unpad, .parse, .decode] → ∀ s : State,
    ∃ t, exec i s = .next t ∧ t.block.status ≠ 0x00) ∧
  (∀ (s : State) (op : Byte), 0x05 < op → ∃ t, exec (.hostWr 0x000 op) s = .next t ∧ t.block.status ≠ 0x00) ∧
  (∀ s t : State, step s = .next t → t.block.status = 0x00 →
    takesReset s ∨ (s.block.status = 0x00 ∧ ∀ op, takesCommand s op → op = 0x00))

/-! ### The host's port -/

/-- R66: the byte a host read returns at every address; the block keeps its state. -/
def Obligations.HostReadReturnsItsByte : Prop :=
  ∀ (s : State) (a : Addr), ∃ v : Byte,
    exec (.hostRd a) s = .next { block := s.block, pending := s.pending, reads := s.reads ++ [v] } ∧
    (a = 0x000 → v = 0x00) ∧
    (a = 0x001 → v = s.block.status) ∧
    (a = 0x002 → v.toNat = 4 * s.block.recValid.toNat + 2 * s.block.keyOk.toNat + s.block.cfgLock.toNat) ∧
    (a = 0x003 → v = s.block.errStage) ∧
    (a = 0x004 → v.toNat = s.block.errInfo.toNat / 256) ∧ (a = 0x005 → v.toNat = s.block.errInfo.toNat % 256) ∧
    (a = 0x006 → v.toNat = s.block.outLen.toNat / 256) ∧ (a = 0x007 → v.toNat = s.block.outLen.toNat % 256) ∧
    (a = 0x008 → v.toNat = s.block.inLen.toNat / 256) ∧ (a = 0x009 → v.toNat = s.block.inLen.toNat % 256) ∧
    (a = 0x00A → v.toNat = s.block.advVid.toNat / 256) ∧ (a = 0x00B → v.toNat = s.block.advVid.toNat % 256) ∧
    (a = 0x00C → v.toNat = s.block.expVid.toNat / 256) ∧ (a = 0x00D → v.toNat = s.block.expVid.toNat % 256) ∧
    (a = 0x00E → v = s.block.keyLen) ∧
    (0x010 ≤ a ∧ a < 0x020 → v = 0x00) ∧
    (∀ i : Fin 8, a.toNat = 0x020 + i → v = s.block.record[i]) ∧
    (∀ i : Fin 256, a.toNat = 0x100 + i → v = s.block.ibuf.read i) ∧
    (∀ i : Fin 256, a.toNat = 0x200 + i → v = s.block.obuf.read i) ∧
    (a = 0x00F ∨ (0x028 ≤ a ∧ a < 0x100) ∨ 0x300 ≤ a → v = 0x00)

/-- R67: what a host write leaves at every address; at CMD it performs the command its byte encodes (R113). -/
def Obligations.HostWriteStoresItsByte : Prop :=
  ∀ (s : State) (a : Addr) (v : Byte),
    (a = 0x000 → exec (.hostWr a v) s = performCommand v s) ∧
    (a = 0x008 → exec (.hostWr a v) s = .next (s.withBlock { s.block with
      inLen := BitVec.ofNat 16 (v.toNat * 256 + s.block.inLen.toNat % 256) })) ∧
    (a = 0x009 → exec (.hostWr a v) s = .next (s.withBlock { s.block with
      inLen := BitVec.ofNat 16 (s.block.inLen.toNat / 256 * 256 + v.toNat) })) ∧
    (a = 0x00A → exec (.hostWr a v) s = .next (s.withBlock { s.block with
      advVid := BitVec.ofNat 16 (v.toNat * 256 + s.block.advVid.toNat % 256) })) ∧
    (a = 0x00B → exec (.hostWr a v) s = .next (s.withBlock { s.block with
      advVid := BitVec.ofNat 16 (s.block.advVid.toNat / 256 * 256 + v.toNat) })) ∧
    (a = 0x00C → s.block.cfgLock = false → exec (.hostWr a v) s = .next (s.withBlock { s.block with
      expVid := BitVec.ofNat 16 (v.toNat * 256 + s.block.expVid.toNat % 256) })) ∧
    (a = 0x00D → s.block.cfgLock = false → exec (.hostWr a v) s = .next (s.withBlock { s.block with
      expVid := BitVec.ofNat 16 (s.block.expVid.toNat / 256 * 256 + v.toNat) })) ∧
    (a = 0x00E → s.block.cfgLock = false → exec (.hostWr a v) s = .next (s.withBlock { s.block with keyLen := v })) ∧
    (∀ i : Fin 16, a.toNat = 0x010 + i → s.block.cfgLock = false →
      exec (.hostWr a v) s = .next (s.withBlock { s.block with key := s.block.key.set i v })) ∧
    (∀ i : Fin 256, a.toNat = 0x100 + i → ∃ m : Memory,
      exec (.hostWr a v) s = .next (s.withBlock { s.block with ibuf := m }) ∧ m.read i = v ∧
        ∀ j, j ≠ i.val → m.read j = s.block.ibuf.read j) ∧
    (0x00C ≤ a ∧ a < 0x020 ∧ a ≠ 0x00F ∧ s.block.cfgLock = true → exec (.hostWr a v) s = .next s) ∧
    ((0x001 ≤ a ∧ a < 0x008) ∨ a = 0x00F ∨ (0x020 ≤ a ∧ a < 0x100) ∨ 0x200 ≤ a → exec (.hostWr a v) s = .next s)

/-- R113: the dispatch of a write to CMD, and a step that takes one. -/
def Obligations.CommandDispatch : Prop :=
  (∀ (s : State) (op : Byte) (rest : List HostEvent), s.pending = .tx (.write 0x000 op) :: rest →
    step s = exec (.hostWr 0x000 op) { s with pending := rest }) ∧
  ∀ s : State,
    exec (.hostWr 0x000 0x00) s = exec .nop s ∧ exec (.hostWr 0x000 0x01) s = exec .config s ∧
    exec (.hostWr 0x000 0x02) s = exec .decrypt s ∧ exec (.hostWr 0x000 0x03) s = exec .unpad s ∧
    exec (.hostWr 0x000 0x04) s = exec .parse s ∧ exec (.hostWr 0x000 0x05) s = exec .decode s ∧
    ∀ op : Byte, 0x05 < op → exec (.hostWr 0x000 op) s = execIllegal op s

/-- R63, R65, R70: after a host write to a readable, writable and unlocked byte a host read of it returns the byte
written, every other address reads as before, and writing it again changes nothing more. -/
def Obligations.ReadAfterHostWrite : Prop :=
  ∀ (s : State) (a : Addr) (v : Byte),
    (0x008 ≤ a ∧ a < 0x00C) ∨ (0x100 ≤ a ∧ a < 0x200) ∨ (0x00C ≤ a ∧ a < 0x00F ∧ s.block.cfgLock = false) →
    ∃ t, exec (.hostWr a v) s = .next t ∧ hostRead a t.block = v ∧
      (∀ a', a' ≠ a → hostRead a' t.block = hostRead a' s.block) ∧ exec (.hostWr a v) t = .next t

/-- R61: the two bytes of a 16-bit register, the more significant at the lower address. -/
def Obligations.SixteenBitRegistersBigEndian : Prop :=
  ∀ (s : State) (h l : Byte),
    (∃ t u, exec (.hostWr 0x008 h) s = .next t ∧ exec (.hostWr 0x009 l) t = .next u ∧
      u.block = { s.block with inLen := BitVec.ofNat 16 (h.toNat * 256 + l.toNat) }) ∧
    (∃ t u, exec (.hostWr 0x00A h) s = .next t ∧ exec (.hostWr 0x00B l) t = .next u ∧
      u.block = { s.block with advVid := BitVec.ofNat 16 (h.toNat * 256 + l.toNat) }) ∧
    (s.block.cfgLock = false →
      ∃ t u, exec (.hostWr 0x00C h) s = .next t ∧ exec (.hostWr 0x00D l) t = .next u ∧
        u.block = { s.block with expVid := BitVec.ofNat 16 (h.toNat * 256 + l.toNat) })

/-- R33: without a usable key, or on any event but a DECRYPT or a DECODE, nothing a step does depends on KEY: two
machines that differ in KEY alone answer states that differ in KEY at most. -/
def Obligations.KeyUnusedWithoutDecryption : Prop :=
  ∀ (s : State) (k : Vector Byte 16),
    ¬ (s.block.cfgLock = true ∧ s.block.keyOk = true) ∨ (¬ takesCommand s 0x02 ∧ ¬ takesCommand s 0x05) →
    ∃ (t : State) (k' : Vector Byte 16), step s = .next t ∧
      step (s.withBlock { s.block with key := k }) = .next (t.withBlock { t.block with key := k' })

/-- R33, R69: no host read returns anything that depends on KEY. -/
def Obligations.KeyNeverRead : Prop :=
  ∀ (b : Block) (k : Vector Byte 16) (a : Addr), hostRead a { b with key := k } = hostRead a b

/-! ### NOP and CONFIG -/

/-- R110: NOP changes no state. -/
def Obligations.NopChangesNothing : Prop := ∀ s : State, exec .nop s = .next s

/-- R111: CONFIG locks the configuration and judges the key length, once. -/
def Obligations.ConfigFollowsItsRule : Prop :=
  ∀ s : State,
    (s.block.cfgLock = true → exec .config s = .next (s.withBlock (ended s.block 0x22 0x07 0x0000))) ∧
    (s.block.cfgLock = false → s.block.keyLen.toNat ≠ 16 → exec .config s = .next (s.withBlock
      (ended { s.block with cfgLock := true, keyOk := false } 0x11 0x06 (BitVec.ofNat 16 s.block.keyLen.toNat)))) ∧
    (s.block.cfgLock = false → s.block.keyLen.toNat = 16 → exec .config s = .next (s.withBlock
      (ended { s.block with cfgLock := true, keyOk := true } 0x01 0x00 0x0000)))

/-- R252: an INVALID_KEY_SIZE from CONFIG persists until reset. -/
def Obligations.BadKeyPersists : Prop :=
  (∀ s : State, s.block.cfgLock = false → s.block.keyLen ≠ 16 →
    ∃ t, exec .config s = .next t ∧ t.block.status = 0x11 ∧ t.block.cfgLock = true ∧ t.block.keyOk = false) ∧
  (∀ s t : State, s.block.cfgLock = true → s.block.keyOk = false → ¬ takesReset s → step s = .next t →
    t.block.cfgLock = true ∧ t.block.keyOk = false) ∧
  (∀ s : State, s.block.cfgLock = true → s.block.keyOk = false →
    (∃ t, exec .decrypt s = .next t ∧ t.block.status = 0x11) ∧
    (s.block.advVid = s.block.expVid → s.block.inLen = 16 ∨ s.block.inLen = 18 →
      ∃ t, exec .decode s = .next t ∧ t.block.status = 0x11) ∧
    (s.block.advVid ≠ s.block.expVid → ∃ t, exec .decode s = .next t ∧ t.block.status = 0x02)) ∧
  (∀ (s : State) (c k : Bool), ∃ t u, exec .unpad s = .next t ∧
    exec .unpad (s.withBlock { s.block with cfgLock := c, keyOk := k }) =
      .next (t.withBlock { t.block with cfgLock := c, keyOk := k }) ∧
    exec .parse s = .next u ∧
    exec .parse (s.withBlock { s.block with cfgLock := c, keyOk := k }) =
      .next (u.withBlock { u.block with cfgLock := c, keyOk := k }))

/-! ### DECRYPT and the cipher -/

/-- R130: DECRYPT, its failures in the order checked, and the decrypted blocks. -/
def Obligations.DecryptFollowsItsRule : Prop :=
  ∀ s : State,
    (s.block.cfgLock = false →
      exec .decrypt s = .next (s.withBlock (ended (outputCleared s.block) 0x21 0x07 0x0000))) ∧
    (s.block.cfgLock = true → s.block.keyOk = false →
      exec .decrypt s = .next (s.withBlock
        (ended (outputCleared s.block) 0x11 0x03 (BitVec.ofNat 16 s.block.keyLen.toNat)))) ∧
    (s.block.cfgLock = true → s.block.keyOk = true → s.block.inLen.toNat = 0 ∨ s.block.inLen.toNat % 16 ≠ 0 →
      exec .decrypt s = .next (s.withBlock (ended (outputCleared s.block) 0x12 0x03 s.block.inLen))) ∧
    (s.block.cfgLock = true → s.block.keyOk = true → s.block.inLen.toNat % 16 = 0 → 256 < s.block.inLen.toNat →
      exec .decrypt s = .next (s.withBlock (ended (outputCleared s.block) 0x23 0x07 s.block.inLen))) ∧
    (s.block.cfgLock = true → s.block.keyOk = true → s.block.inLen.toNat ≠ 0 → s.block.inLen.toNat % 16 = 0 →
      s.block.inLen.toNat ≤ 256 →
      ∃ out : Memory,
        exec .decrypt s = .next (s.withBlock
          (ended { s.block with outLen := s.block.inLen, obuf := out } 0x01 0x00 0x0000)) ∧
        (∀ j < s.block.inLen.toNat / 16,
          memRead out (16 * j) 16 = invCipher s.block.key.toList (memRead s.block.ibuf (16 * j) 16)) ∧
        ∀ i, s.block.inLen.toNat ≤ i → out.read i = s.block.obuf.read i)

/-- R145: DECRYPT repeated on unchanged operands writes the same bytes and status again. -/
def Obligations.DecryptIdempotent : Prop :=
  ∀ s : State, ∃ t u, exec .decrypt s = .next t ∧ exec .decrypt t = .next u ∧
    u = t.withBlock { t.block with obuf := u.block.obuf } ∧ ∀ i, u.block.obuf.read i = t.block.obuf.read i

/-- R132: no chaining. Block i of the plaintext is the inverse cipher of block i of the ciphertext alone. -/
def Obligations.EcbBlocksIndependent : Prop :=
  ∀ key c : ByteString, c.length % 16 = 0 →
    (ecbDecrypt key c).length = c.length ∧
    (∀ i < c.length / 16, blockOf (ecbDecrypt key c) i = invCipher key (blockOf c i)) ∧
    (∀ d : ByteString, d.length % 16 = 0 → ecbDecrypt key (c ++ d) = ecbDecrypt key c ++ ecbDecrypt key d)

/-- R144: the inverse cipher inverts the forward cipher, for every key and block. -/
def Obligations.InvCipherInvertsCipher : Prop :=
  ∀ key p : ByteString, p.length = 16 → invCipher key (cipher key p) = p

/-- R145: for a fixed key each block's map is a bijection on 16-byte strings. -/
def Obligations.InvCipherBijective : Prop :=
  ∀ key c : ByteString, c.length = 16 →
    (invCipher key c).length = 16 ∧ ∃! p : ByteString, p.length = 16 ∧ invCipher key p = c

/-- R143: the key schedule, word by word. -/
def Obligations.KeyScheduleRecurrence : Prop :=
  ∀ key : ByteString,
    (keyExpansion key).length = 44 ∧
    (∀ i < 4, wordAt (keyExpansion key) i =
      ⟨byteAt key (4 * i), byteAt key (4 * i + 1), byteAt key (4 * i + 2), byteAt key (4 * i + 3)⟩) ∧
    (∀ i, 4 ≤ i → i < 44 → i % 4 ≠ 0 → wordAt (keyExpansion key) i =
      xorColumn (wordAt (keyExpansion key) (i - 4)) (wordAt (keyExpansion key) (i - 1))) ∧
    (∀ i, 4 ≤ i → i < 44 → i % 4 = 0 → wordAt (keyExpansion key) i =
      xorColumn (wordAt (keyExpansion key) (i - 4))
        ⟨sbox (wordAt (keyExpansion key) (i - 1)).row1 ^^^ xtimePow (i / 4 - 1) 0x01,
         sbox (wordAt (keyExpansion key) (i - 1)).row2, sbox (wordAt (keyExpansion key) (i - 1)).row3,
         sbox (wordAt (keyExpansion key) (i - 1)).row0⟩)

/-- R137, R138: the S-box table is the affine map of the inverse, and the inverse table inverts it. -/
def Obligations.SboxTables : Prop :=
  ∀ x : Byte, sbox x = affine (gfInv x) ∧ (x ≠ 0x00 → mul x (gfInv x) = 0x01) ∧ invSbox (sbox x) = x ∧
    sbox (invSbox x) = x

/-- R136: multiplication in the field. -/
def Obligations.FieldMultiplication : Prop :=
  (∀ a b : Byte, mul a b = mul b a) ∧ (∀ a b c : Byte, mul a (b ^^^ c) = mul a b ^^^ mul a c) ∧
  (∀ a : Byte, mul a 0x01 = a ∧ mul a 0x00 = 0x00) ∧ mul 0x57 0x13 = 0xFE

/-- R141, R144: InvMixColumns is the inverse of MixColumns, and MixColumns of it. -/
def Obligations.InvMixColumnsInvertsMixColumns : Prop :=
  ∀ c : Column, invMixColumn (mixColumn c) = c ∧ mixColumn (invMixColumn c) = c

/-- R140: InvShiftRows in block-byte indices. -/
def Obligations.InvShiftRowsPermutation : Prop :=
  ∀ b : ByteString, fromState (invShiftRows (toState b)) =
    [byteAt b 0, byteAt b 13, byteAt b 10, byteAt b 7, byteAt b 4, byteAt b 1, byteAt b 14, byteAt b 11,
     byteAt b 8, byteAt b 5, byteAt b 2, byteAt b 15, byteAt b 12, byteAt b 9, byteAt b 6, byteAt b 3]

/-! ### UNPAD -/

/-- R170: UNPAD, its failures in the order checked, and the message. -/
def Obligations.UnpadFollowsItsRule : Prop :=
  ∀ s : State,
    (s.block.inLen.toNat = 0 ∨ s.block.inLen.toNat % 16 ≠ 0 →
      exec .unpad s = .next (s.withBlock (ended (outputCleared s.block) 0x13 0x04 s.block.inLen))) ∧
    (s.block.inLen.toNat % 16 = 0 → 256 < s.block.inLen.toNat →
      exec .unpad s = .next (s.withBlock (ended (outputCleared s.block) 0x23 0x07 s.block.inLen))) ∧
    (s.block.inLen.toNat ≠ 0 → s.block.inLen.toNat % 16 = 0 → s.block.inLen.toNat ≤ 256 →
      ∀ p : Nat, (s.block.ibuf.read (s.block.inLen.toNat - 1)).toNat = p →
        (p < 1 ∨ 16 < p →
          exec .unpad s = .next (s.withBlock (ended (outputCleared s.block) 0x14 0x04 s.block.inLen))) ∧
        (1 ≤ p → p ≤ 16 →
          (∃ j, s.block.inLen.toNat - p ≤ j ∧ j < s.block.inLen.toNat ∧ (s.block.ibuf.read j).toNat ≠ p) →
          exec .unpad s = .next (s.withBlock (ended (outputCleared s.block) 0x15 0x04 s.block.inLen))) ∧
        (1 ≤ p → p ≤ 16 →
          (∀ j, s.block.inLen.toNat - p ≤ j → j < s.block.inLen.toNat → (s.block.ibuf.read j).toNat = p) →
          ∃ out : Memory,
            exec .unpad s = .next (s.withBlock (ended
              { s.block with outLen := BitVec.ofNat 16 (s.block.inLen.toNat - p), obuf := out } 0x01 0x00 0x0000)) ∧
            (∀ i < s.block.inLen.toNat - p, out.read i = s.block.ibuf.read i) ∧
            ∀ i, s.block.inLen.toNat - p ≤ i → out.read i = s.block.obuf.read i))

/-- R174: the harness padding, and unpadding what it padded. -/
def Obligations.UnpadInvertsPad : Prop :=
  ∀ m : ByteString, ∃ p : Nat, p = 16 - m.length % 16 ∧ 1 ≤ p ∧ p ≤ 16 ∧
    pad m = m ++ List.replicate p (BitVec.ofNat 8 p) ∧ unpad (pad m) = .ok m

/-- R88, R171: `unpad` accepts exactly the padded-plaintext format. -/
def Obligations.UnpadAcceptsExactlyPadded : Prop :=
  ∀ p m : ByteString, unpad p = .ok m ↔
    p.length % 16 = 0 ∧ ∃ n : Nat, 1 ≤ n ∧ n ≤ 16 ∧ p = m ++ List.replicate n (BitVec.ofNat 8 n)

/-! ### PARSE and the record -/

/-- R190: PARSE takes an 8-byte body into REC, or clears it. -/
def Obligations.ParseFollowsItsRule : Prop :=
  ∀ s : State,
    (s.block.inLen.toNat ≠ 8 →
      exec .parse s = .next (s.withBlock (ended (recordCleared s.block) 0x16 0x05 s.block.inLen))) ∧
    (s.block.inLen.toNat = 8 →
      exec .parse s = .next (s.withBlock (ended { s.block with
        record := #v[s.block.ibuf.read 0, s.block.ibuf.read 1, s.block.ibuf.read 2, s.block.ibuf.read 3,
                     s.block.ibuf.read 4, s.block.ibuf.read 5, s.block.ibuf.read 6, s.block.ibuf.read 7],
        recValid := true } 0x01 0x00 0x0000)))

/-- R191: every 8-byte body has a record, and the body can be recovered from it; other lengths fail. -/
def Obligations.RecordRecoversBody : Prop :=
  ∀ b : ByteString,
    (b.length = 8 → ∃ r, parse b = .ok r ∧ recordBody r = b) ∧
    (b.length ≠ 8 → parse b = .err .unexpectedBodyLength b.length)

/-- R89, R90, R91, R92: the record's fields as bit ranges of the body's 64-bit big-endian reading. -/
def Obligations.RecordFieldsAreBitRanges : Prop :=
  ∀ b : ByteString, b.length = 8 → ∃ r, parse b = .ok r ∧
    r.deviceId = ((be64 b).extractLsb' 56 8).toNat ∧ r.versionId = ((be64 b).extractLsb' 48 8).toNat ∧
    r.flags = (be64 b).extractLsb' 40 8 ∧ r.i2cFail = (be64 b).getLsbD 40 ∧ r.batLow = (be64 b).getLsbD 41 ∧
    r.tmpFail = (be64 b).getLsbD 42 ∧ r.tmpX100 = ((be64 b).extractLsb' 24 16).toInt ∧
    r.cpuX100 = ((be64 b).extractLsb' 8 16).toInt ∧ r.batteryPct = ((be64 b).extractLsb' 0 8).toInt ∧
    r.temperatureC * 100 = r.tmpX100 ∧ r.cpuTemperatureC * 100 = r.cpuX100

/-! ### DECODE -/

/-- R210: DECODE, its outcomes in the order checked, and the record. -/
def Obligations.DecodeFollowsItsRule : Prop :=
  ∀ s : State,
    (s.block.cfgLock = false →
      exec .decode s = .next (s.withBlock (ended (recordCleared s.block) 0x21 0x07 0x0000))) ∧
    (s.block.cfgLock = true → s.block.advVid ≠ s.block.expVid →
      exec .decode s = .next (s.withBlock (ended (recordCleared s.block) 0x02 0x01 0x0000))) ∧
    (s.block.cfgLock = true → s.block.advVid = s.block.expVid →
      s.block.inLen.toNat ≠ 16 → s.block.inLen.toNat ≠ 18 →
      exec .decode s = .next (s.withBlock (ended (recordCleared s.block) 0x10 0x02 s.block.inLen))) ∧
    (s.block.cfgLock = true → s.block.advVid = s.block.expVid →
      s.block.inLen.toNat = 16 ∨ s.block.inLen.toNat = 18 → s.block.keyOk = false →
      exec .decode s = .next (s.withBlock
        (ended (recordCleared s.block) 0x11 0x03 (BitVec.ofNat 16 s.block.keyLen.toNat)))) ∧
    (s.block.cfgLock = true → s.block.advVid = s.block.expVid → s.block.keyOk = true → ∀ first p : Nat,
      (s.block.inLen.toNat = 16 ∧ first = 0) ∨ (s.block.inLen.toNat = 18 ∧ first = 2) →
      ∀ plain : ByteString, plain = invCipher s.block.key.toList (memRead s.block.ibuf first 16) →
      (byteAt plain 15).toNat = p →
        (p < 1 ∨ 16 < p →
          exec .decode s = .next (s.withBlock (ended (recordCleared s.block) 0x14 0x04 16))) ∧
        (1 ≤ p → p ≤ 16 → (∃ j, 16 - p ≤ j ∧ j < 16 ∧ (byteAt plain j).toNat ≠ p) →
          exec .decode s = .next (s.withBlock (ended (recordCleared s.block) 0x15 0x04 16))) ∧
        (1 ≤ p → p ≤ 16 → p ≠ 8 → (∀ j, 16 - p ≤ j → j < 16 → (byteAt plain j).toNat = p) →
          exec .decode s = .next (s.withBlock
            (ended (recordCleared s.block) 0x16 0x05 (BitVec.ofNat 16 (16 - p))))) ∧
        (p = 8 → (∀ j, 8 ≤ j → j < 16 → (byteAt plain j).toNat = 8) →
          exec .decode s = .next (s.withBlock (ended { s.block with
            record := #v[byteAt plain 0, byteAt plain 1, byteAt plain 2, byteAt plain 3,
                         byteAt plain 4, byteAt plain 5, byteAt plain 6, byteAt plain 7],
            recValid := true } 0x01 0x00 0x0000))))

/-- R211: under the lock (and the invariant that KEY_OK says whether KEY_LEN is 16), DECODE shows what the source's
`decode` answers; IN_LEN above 256 gives MalformedLength. `configuredKey` is log 12's. -/
def Obligations.DecodeRefinesTheSource : Prop :=
  ∀ s : State, s.block.cfgLock = true → s.block.configLegal →
    (s.block.inLen.toNat ≤ 256 →
      exec .decode s = .next (s.withBlock (showDecodeResult
        (beaconDecode s.block.advVid (memRead s.block.ibuf 0 s.block.inLen.toNat) s.block.expVid
          (configuredKey s.block)) s.block))) ∧
    (256 < s.block.inLen.toNat → s.block.advVid = s.block.expVid →
      exec .decode s = .next (s.withBlock
        (showDecodeResult (.err .malformedLength s.block.inLen.toNat) s.block)))

/-- R131, R171: DECRYPT and UNPAD apply the source's functions, within the buffer. -/
def Obligations.ComponentsRefineTheSource : Prop :=
  ∀ s : State, s.block.inLen.toNat ≤ 256 →
    (s.block.cfgLock = true → s.block.configLegal → ∃ t, exec .decrypt s = .next t ∧
      match decryptBlocks (memRead s.block.ibuf 0 s.block.inLen.toNat) (configuredKey s.block) with
      | .ok p => t.block.status = 0x01 ∧ t.block.outLen.toNat = p.length ∧ memRead t.block.obuf 0 p.length = p
      | .err k info => t.block.status = code k ∧ t.block.errStage = 0x03 ∧ t.block.errInfo.toNat = info ∧
          t.block.outLen = 0x0000 ∧ t.block.obuf = s.block.obuf
      | .notApplicable => False) ∧
    (∃ t, exec .unpad s = .next t ∧
      match unpad (memRead s.block.ibuf 0 s.block.inLen.toNat) with
      | .ok m => t.block.status = 0x01 ∧ t.block.outLen.toNat = m.length ∧ memRead t.block.obuf 0 m.length = m
      | .err k info => t.block.status = code k ∧ t.block.errStage = 0x04 ∧ t.block.errInfo.toNat = info ∧
          t.block.outLen = 0x0000 ∧ t.block.obuf = s.block.obuf
      | .notApplicable => False)

/-- R216: the header never changes the result, and neither form is malformed. -/
def Obligations.HeaderIndependence : Prop :=
  ∀ s s' : State,
    s.block.inLen = 18 → s'.block.inLen = 16 → (∀ i < 16, s'.block.ibuf.read i = s.block.ibuf.read (2 + i)) →
    s'.block.advVid = s.block.advVid → sameConfiguration s.block s'.block →
    ∃ t t', exec .decode s = .next t ∧ exec .decode s' = .next t' ∧ sameDecodeResult t.block t'.block ∧
      t.block.status ≠ 0x10 ∧ t'.block.status ≠ 0x10

/-- R217: DECODE's results are a function of its operands, repeating it changes nothing, and it changes none of its
operands. -/
def Obligations.DecodeDeterminedByOperands : Prop :=
  (∀ s s' : State, sameDecodeOperands s.block s'.block →
    ∃ t t', exec .decode s = .next t ∧ exec .decode s' = .next t' ∧ sameDecodeResult t.block t'.block) ∧
  (∀ s : State, ∃ t, exec .decode s = .next t ∧ exec .decode t = .next t ∧ sameOperands s.block t.block ∧
    t.block.cfgLock = s.block.cfgLock ∧ t.block.keyOk = s.block.keyOk)

/-- R218: the round trip of the telemetry wire contract. -/
def Obligations.TelemetryRoundTrip : Prop :=
  ∀ (s : State) (body : ByteString), body.length = 8 → s.block.cfgLock = true → s.block.keyOk = true →
    s.block.advVid = s.block.expVid → s.block.inLen = 16 →
    memRead s.block.ibuf 0 16 = ecbEncrypt s.block.key.toList (pad body) →
    ∃ t, exec .decode s = .next t ∧ t.block.status = 0x01 ∧ t.block.recValid = true ∧ t.block.record.toList = body

/-- R210, R215: DECODE leaves OUT_LEN and OBUF unchanged, reports only lengths, and never gives
INVALID_CIPHERTEXT_LENGTH, INVALID_PADDING_SIZE or LENGTH_OVERFLOW. -/
def Obligations.DecodeExposesNoIntermediate : Prop :=
  ∀ s : State, ∃ t, exec .decode s = .next t ∧ t.block.outLen = s.block.outLen ∧ t.block.obuf = s.block.obuf ∧
    t.block.status ∉ [0x12#8, 0x13#8, 0x23#8] ∧
    (t.block.errInfo = 0 ∨ (t.block.status = 0x10 ∧ t.block.errInfo = s.block.inLen) ∨
      (t.block.status = 0x11 ∧ t.block.errInfo.toNat = s.block.keyLen.toNat) ∨
      ((t.block.status = 0x14 ∨ t.block.status = 0x15) ∧ t.block.errInfo = 16) ∨
      (t.block.status = 0x16 ∧ t.block.errInfo.toNat < 16 ∧ t.block.errInfo ≠ 8))

/-- R190, R214: on any outcome but OK, a PARSE or a DECODE leaves REC all zero and REC_VALID = 0. -/
def Obligations.NoRecordButOnSuccess : Prop :=
  ∀ (i : Instr), i = .parse ∨ i = .decode → ∀ s : State, ∃ t, exec i s = .next t ∧
    ((t.block.status = 0x01 ∧ t.block.recValid = true) ∨
     (t.block.status ≠ 0x01 ∧ t.block.recValid = false ∧ t.block.record = Vector.replicate 8 0x00))

/-- R28, R36: on any outcome but OK, a DECRYPT or an UNPAD leaves OUT_LEN = 0 and OBUF as it was. -/
def Obligations.NoOutputButOnSuccess : Prop :=
  ∀ (i : Instr), i = .decrypt ∨ i = .unpad → ∀ s : State, ∃ t, exec i s = .next t ∧ t.block.outLen.toNat ≤ 256 ∧
    (∀ j, t.block.outLen.toNat ≤ j → t.block.obuf.read j = s.block.obuf.read j) ∧
    (t.block.status ≠ 0x01 → t.block.outLen = 0x0000 ∧ t.block.obuf = s.block.obuf)

/-- R35: a command reads IBUF[0..min(IN_LEN, 256)) and no other byte of IBUF. -/
def Obligations.CommandsReadOnlyTheirOperand : Prop :=
  ∀ (i : Instr), i ∈ [Instr.nop, .config, .decrypt, .unpad, .parse, .decode] → ∀ (s : State) (m : Memory),
    (∀ j < min s.block.inLen.toNat 256, m.read j = s.block.ibuf.read j) →
    ∃ t, exec i s = .next t ∧
      exec i (s.withBlock { s.block with ibuf := m }) = .next (t.withBlock { t.block with ibuf := m })

/-! ### Parameters -/

/-- R68: `FPSA_BASE + a` reaches block address `a`, and no bus address outside the 1 KiB window is the block's. -/
def Obligations.BusWindow : Prop :=
  (∀ a : Addr, blockAddress (Config.fpsaBase + a.toNat) = some a) ∧
  (∀ h : Nat, h < Config.fpsaBase ∨ Config.fpsaBase + 1024 ≤ h → blockAddress h = none)

/-- R277: NOP and illegal commands complete in a latency no longer than any other command's. The latency is the
model's opaque parameter (log 8). -/
def Obligations.QuickCommands : Prop :=
  ∀ (op op' : Byte) (n n' : Half) (p p' : Nat), op = 0x00 ∨ 0x05 < op → op' ≠ 0x00 → op' ≤ 0x05 →
    Config.cmdLatency op n p ≤ Config.cmdLatency op' n' p'
end

