-- ==== Sys2Proof/Laws/Aes.lean ====
section
/-! SUPPORT. Shapes of the cipher's strings: lengths, blocks, and the two directions of the state mapping. -/

namespace Sys2Proof.Machine

@[simp] theorem fromState_length (s : AesState) : (fromState s).length = 16 := rfl

/-- Reading a state back from its block bytes. -/
@[simp] theorem toState_fromState (s : AesState) : toState (fromState s) = s := rfl

/-- Writing back the state of a 16-byte block. -/
theorem fromState_toState {b : ByteString} (h : b.length = 16) : fromState (toState b) = b := by
  match b, h with
  | [_, _, _, _, _, _, _, _, _, _, _, _, _, _, _, _], _ => rfl

@[simp] theorem invCipher_length (key b : ByteString) : (invCipher key b).length = 16 := rfl

@[simp] theorem cipher_length (key b : ByteString) : (cipher key b).length = 16 := rfl

theorem expandWords_length (k : Nat) (w : List Column) : (expandWords k w).length = w.length + k := by
  induction k generalizing w with
  | zero => rfl
  | succ k ih => simp [expandWords, ih]; omega

/-- The key schedule has 44 words (R143). -/
theorem keyExpansion_length (key : ByteString) : (keyExpansion key).length = 44 := by
  simp [keyExpansion, expandWords_length]

/-- A block-by-block map gives 16 bytes a block. -/
theorem flatMap_blocks_length (f : Nat → ByteString) (h : ∀ i, (f i).length = 16) (n : Nat) :
    ((List.range n).flatMap f).length = 16 * n := by
  induction n with
  | zero => rfl
  | succ n ih => simp [List.range_succ, ih, h]; omega

/-- "Output length equals input length" for whole blocks (R87). -/
theorem ecbDecrypt_length (key c : ByteString) (h : c.length % 16 = 0) : (ecbDecrypt key c).length = c.length := by
  rw [ecbDecrypt, flatMap_blocks_length _ (fun i => invCipher_length _ _)]
  omega

theorem ecbEncrypt_length (key p : ByteString) (h : p.length % 16 = 0) : (ecbEncrypt key p).length = p.length := by
  rw [ecbEncrypt, flatMap_blocks_length _ (fun i => cipher_length _ _)]
  omega

/-- One block is decrypted by one inverse cipher (R132). -/
theorem ecbDecrypt_block (key : ByteString) {c : ByteString} (h : c.length = 16) : ecbDecrypt key c = invCipher key c := by
  simp [ecbDecrypt, blockOf, h, List.range_succ, List.take_of_length_le (Nat.le_of_eq h)]

theorem ecbEncrypt_block (key : ByteString) {p : ByteString} (h : p.length = 16) : ecbEncrypt key p = cipher key p := by
  simp [ecbEncrypt, blockOf, h, List.range_succ, List.take_of_length_le (Nat.le_of_eq h)]

end Sys2Proof.Machine
end

