-- ==== Sys2Proof/Machine/HostProgram.lean ====
section
/-! DEFINITION. The host's side of the port: the host-program notation (spec/30_encoding.md R84) and a run of a host
program (spec/70_reset_and_hazards.md R278). "The block never sees them: it sees only the transactions they issue." -/

namespace Sys2Proof.Machine

/-- The forms of a host program (R84). The names that reads give their values (`-> name`) are notation: the values
are in `State.reads`, in order. Labels are strings. -/
inductive HostForm where
  | wr (a : Addr) (v : Byte)
  | rd (a : Addr)
  | wr16 (a : Addr) (v : Half)
  | rd16 (a : Addr)
  | wrbuf (a : Addr) (s : ByteString)
  | rdbuf (a : Addr) (k : Nat)
  | cmd (op : Byte)
  | copy (src dst : Addr) (k : Nat)
  | beq (a : Addr) (v : Byte) (target : String)
  | bne (a : Addr) (v : Byte) (target : String)
  | b (target : String)
  | reset
  | halt
  | label (name : String)
  deriving DecidableEq, Repr

/-- The address `a + i`. -/
def addrPlus (a : Addr) (i : Nat) : Addr := a + BitVec.ofNat 10 i

/-- The writes of `wrbuf` (R84). -/
def writesFrom (a : Addr) : ByteString → List HostEvent
  | [] => []
  | v :: s => .tx (.write a v) :: writesFrom (addrPlus a 1) s

/-- The reads of `rdbuf` (R84). -/
def readsFrom (a : Addr) : Nat → List HostEvent
  | 0 => []
  | k + 1 => .tx (.read a) :: readsFrom (addrPlus a 1) k

/-- The events a form issues whatever the block answers (R84). `copy` issues its writes from what its reads return,
and is `runForm`'s. -/
def expandForm : HostForm → List HostEvent
  | .wr a v => [.tx (.write a v)]
  | .rd a => [.tx (.read a)]
  | .wr16 a v => [.tx (.write a (hiByte v)), .tx (.write (addrPlus a 1) (loByte v))]
  | .rd16 a => [.tx (.read a), .tx (.read (addrPlus a 1))]
  | .wrbuf a s => writesFrom a s
  | .rdbuf a k => readsFrom a k
  | .cmd op => [.tx (.write 0x000 op)]
  | .copy _ _ _ => []
  | .beq a _ _ => [.tx (.read a)]
  | .bne a _ _ => [.tx (.read a)]
  | .b _ => []
  | .reset => [.reset]
  | .halt => []
  | .label _ => []

/-- At most `k` steps, one after the other. -/
def takeSteps : Nat → State → Host.Outcome State Fault Refusal
  | 0, s => .next s
  | k + 1, s =>
    match step s with
    | .next s' => takeSteps k s'
    | .fault r => .fault r
    | .refused r => .refused r

/-- Issuing events one by one, the block taking each before the next (R274). DESIGN CHOICE, log 16: R84 and R278 do
not say how a run starts on a machine that has events pending already; here they are taken first, oldest first, before
the event issued, so that each event of a program has been taken before its next one is issued or its run ends. -/
def issue : List HostEvent → State → Host.Outcome State Fault Refusal
  | [], s => .next s
  | e :: es, s =>
    match takeSteps (s.pending.length + 1) { s with pending := s.pending ++ [e] } with
    | .next s' => issue es s'
    | .fault r => .fault r
    | .refused r => .refused r

/-- The byte the last read returned: the newest of `reads`. A branch and a `copy` ask for it right after their own read
has been taken (`issue`). -/
def lastRead (s : State) : Byte := s.reads.getLastD 0x00

/-- `copy S, D, k`: `k` times a read and a write of the byte it returned (R84). -/
def copyBytes (src dst : Addr) : Nat → State → Host.Outcome State Fault Refusal
  | 0, s => .next s
  | k + 1, s =>
    match issue [.tx (.read src)] s with
    | .next s1 =>
      match issue [.tx (.write dst (lastRead s1))] s1 with
      | .next s2 => copyBytes (addrPlus src 1) (addrPlus dst 1) k s2
      | .fault r => .fault r
      | .refused r => .refused r
    | .fault r => .fault r
    | .refused r => .refused r

/-- The transactions of one form, run. -/
def runForm (f : HostForm) (s : State) : Host.Outcome State Fault Refusal :=
  match f with
  | .copy src dst k => copyBytes src dst k s
  | _ => issue (expandForm f) s

/-- Where the host goes on after a form at line `pc`, the block having answered (R84): `none` is the end of the
program. DESIGN CHOICE, log 13: R84 says only that `L:` names the next line; here a branch to a label that stands more
than once goes to the first line with it, and a branch to a label that is not there ends the program. -/
def nextLine (program : List HostForm) (pc : Nat) (f : HostForm) (s : State) : Option Nat :=
  match f with
  | .beq _ v target => if lastRead s = v then program.idxOf? (.label target) else some (pc + 1)
  | .bne _ v target => if lastRead s = v then some (pc + 1) else program.idxOf? (.label target)
  | .b target => program.idxOf? (.label target)
  | .halt => none
  | _ => some (pc + 1)

/-- How a run of a host program stands after some host lines. -/
inductive HostRun where
  /-- The program has ended; the state is the run's end state and `reads` its observation (R278). -/
  | ended (s : State)
  /-- The program has not ended: it would go on at line `pc`. -/
  | running (pc : Nat) (s : State)
  /-- The machine stopped. No step of this machine does (log 14). -/
  | stopped
  deriving DecidableEq, Repr

/-- At most `fuel` lines of a host program from line `pc` on (R278). A program with no line left has ended (DESIGN
CHOICE, log 13), and events pending at the start are taken with the first event issued (DESIGN CHOICE, log 16). -/
def runHost (program : List HostForm) : Nat → Nat → State → HostRun
  | 0, pc, s => .running pc s
  | fuel + 1, pc, s =>
    match program[pc]? with
    | none => .ended s
    | some f =>
      match runForm f s with
      | .next s' =>
        match nextLine program pc f s' with
        | some pc' => runHost program fuel pc' s'
        | none => .ended s'
      | .fault _ => .stopped
      | .refused _ => .stopped

end Sys2Proof.Machine
end

