-- ==== Sys2Proof/Laws/HostProgram.lean ====
section
/-! SUPPORT. What issuing a host program's events can do. -/

namespace Sys2Proof.Machine

/-- Steps that go on can be taken in two runs, one after the other. -/
theorem takeSteps_add {j k : Nat} {s t : State} (h : takeSteps j s = .next t) : takeSteps (j + k) s = takeSteps k t := by
  induction j generalizing s with
  | zero => cases h; rw [Nat.zero_add]
  | succ j ih =>
    rw [Nat.succ_add]
    simp only [takeSteps] at h ⊢
    cases hs : step s with
    | next u => rw [hs] at h; exact ih h
    | fault r => rw [hs] at h; cases h
    | refused r => rw [hs] at h; cases h

/-- On a machine with nothing pending an issued event is one step (log 16). -/
theorem issue_cons_of_idle {e : HostEvent} {es : List HostEvent} {s t : State} (hs : s.pending = [])
    (h : step { s with pending := [e] } = .next t) : issue (e :: es) s = issue es t := by
  simp only [issue, hs, List.length_nil, List.nil_append, takeSteps, h]

end Sys2Proof.Machine
end

