-- ==== Sys2Proof/Laws/Memory.lean ====
section
/-! SUPPORT. The laws of the buffers: a read after a write, and the canonical form every operation keeps. -/

namespace Sys2Proof.Machine

/-! ### Bytes -/

@[simp] theorem read_nil (i : Nat) : Memory.read [] i = Memory.unlisted := rfl

theorem read_cons (c : Host.Cell) (m : Memory) (i : Nat) :
    Memory.read (c :: m) i = if c.1 = i then c.2 else Memory.read m i := rfl

/-- A byte no cell lists reads as an unlisted byte. -/
theorem read_eq_unlisted {m : Memory} {i : Nat} (h : ∀ c ∈ m, c.1 ≠ i) : m.read i = Memory.unlisted := by
  induction m with
  | nil => rfl
  | cons c m ih =>
    simp only [List.mem_cons, forall_eq_or_imp] at h
    rw [read_cons, if_neg h.1, ih h.2]

theorem read_filter_ne (m : Memory) (i j : Nat) :
    Memory.read (m.filter (fun c => c.1 != i)) j = if j = i then Memory.unlisted else m.read j := by
  induction m with
  | nil => simp
  | cons c m ih =>
    by_cases hc : c.1 = i
    · rw [List.filter_cons_of_neg (by simp [hc]), ih, read_cons]
      split <;> rename_i hj
      · rfl
      · rw [if_neg (by omega)]
    · rw [List.filter_cons_of_pos (by simp [hc]), read_cons, read_cons, ih]
      by_cases hj : c.1 = j
      · rw [if_pos hj, if_pos hj, if_neg (by omega)]
      · rw [if_neg hj, if_neg hj]

theorem read_insert {m : Memory} {i : Nat} (h : ∀ c ∈ m, c.1 ≠ i) (v : Byte) (j : Nat) :
    (Memory.insert m i v).read j = if j = i then v else m.read j := by
  induction m with
  | nil => simp [Memory.insert, read_cons, eq_comm]
  | cons c m ih =>
    simp only [List.mem_cons, forall_eq_or_imp] at h
    unfold Memory.insert
    split
    · rw [read_cons]
      by_cases hj : j = i
      · rw [if_pos hj.symm, if_pos hj]
      · rw [if_neg (Ne.symm hj), if_neg hj]
    · rw [read_cons, read_cons, ih h.2]
      by_cases hj : c.1 = j
      · rw [if_pos hj, if_pos hj, if_neg (by omega)]
      · rw [if_neg hj, if_neg hj]

/-- The byte written is read back, and every other byte is left alone. -/
@[simp] theorem read_write (m : Memory) (i : Nat) (v : Byte) (j : Nat) :
    (m.write i v).read j = if j = i then v else m.read j := by
  unfold Memory.write
  dsimp only
  split
  · rename_i hv
    rw [read_filter_ne, hv]
  · rw [read_insert (by simp), read_filter_ne]
    split <;> rfl

/-! ### Canonical form -/

theorem wfFrom_cons (lo : Nat) (c : Host.Cell) (m : Memory) :
    Memory.wfFrom lo (c :: m) = true ↔
      lo ≤ c.1 ∧ c.1 < 256 ∧ c.2 ≠ Memory.unlisted ∧ Memory.wfFrom (c.1 + 1) m = true := by
  simp [Memory.wfFrom, and_assoc]

theorem wfFrom_mono {m : Memory} {lo lo' : Nat} (h : lo' ≤ lo) (hm : m.wfFrom lo = true) : m.wfFrom lo' = true := by
  cases m with
  | nil => rfl
  | cons c m =>
    rw [wfFrom_cons] at hm ⊢
    exact ⟨by omega, hm.2⟩

theorem le_of_wfFrom {m : Memory} {lo : Nat} (hm : m.wfFrom lo = true) : ∀ c ∈ m, lo ≤ c.1 := by
  induction m generalizing lo with
  | nil => simp
  | cons c m ih =>
    rw [wfFrom_cons] at hm
    intro d hd
    rcases List.mem_cons.mp hd with rfl | hd
    · exact hm.1
    · have := ih hm.2.2.2 d hd
      omega

theorem wfFrom_filter {m : Memory} {lo : Nat} (p : Host.Cell → Bool) (hm : m.wfFrom lo = true) :
    Memory.wfFrom lo (m.filter p) = true := by
  induction m generalizing lo with
  | nil => exact hm
  | cons c m ih =>
    rw [wfFrom_cons] at hm
    by_cases hc : p c = true
    · rw [List.filter_cons_of_pos hc, wfFrom_cons]
      exact ⟨hm.1, hm.2.1, hm.2.2.1, ih hm.2.2.2⟩
    · rw [List.filter_cons_of_neg hc]
      exact wfFrom_mono (by omega) (ih hm.2.2.2)

theorem wfFrom_insert {m : Memory} {lo i : Nat} {v : Byte} (hm : m.wfFrom lo = true) (hlo : lo ≤ i) (hi : i < 256)
    (hv : v ≠ Memory.unlisted) (hne : ∀ c ∈ m, c.1 ≠ i) : (Memory.insert m i v).wfFrom lo = true := by
  induction m generalizing lo with
  | nil => simpa [Memory.insert, wfFrom_cons] using ⟨hlo, hi, hv, rfl⟩
  | cons c m ih =>
    rw [wfFrom_cons] at hm
    simp only [List.mem_cons, forall_eq_or_imp] at hne
    unfold Memory.insert
    split
    · rw [wfFrom_cons, wfFrom_cons]
      exact ⟨hlo, hi, hv, by omega, hm.2⟩
    · rw [wfFrom_cons]
      exact ⟨hm.1, hm.2.1, hm.2.2.1, ih hm.2.2.2 (by omega) hne.2⟩

/-- Writing a byte keeps the canonical form. -/
theorem wf_write {m : Memory} (hm : m.wf = true) {i : Nat} (hi : i < 256) (v : Byte) : (m.write i v).wf = true := by
  unfold Memory.write
  dsimp only
  split
  · exact wfFrom_filter _ hm
  · exact wfFrom_insert (wfFrom_filter _ hm) (by omega) hi ‹_› (by simp)

/-- A canonical buffer holds nothing at index 256 or above. -/
theorem read_ge {m : Memory} (hm : m.wf = true) {i : Nat} (hi : 256 ≤ i) : m.read i = Memory.unlisted := by
  have : ∀ (lo : Nat) (n : Memory), n.wfFrom lo = true → ∀ c ∈ n, c.1 < 256 := by
    intro lo n
    induction n generalizing lo with
    | nil => simp
    | cons c n ih =>
      intro h d hd
      rw [wfFrom_cons] at h
      rcases List.mem_cons.mp hd with rfl | hd
      · exact h.2.1
      · exact ih _ h.2.2.2 d hd
  exact read_eq_unlisted fun c hc => by have := this 0 m hm c hc; omega

/-- Canonical buffers that read alike are equal data. -/
theorem wfFrom_ext {m n : Memory} {lo : Nat} (hm : m.wfFrom lo = true) (hn : n.wfFrom lo = true)
    (h : ∀ i, m.read i = n.read i) : m = n := by
  induction m generalizing n lo with
  | nil =>
    cases n with
    | nil => rfl
    | cons d n =>
      rw [wfFrom_cons] at hn
      have := h d.1
      rw [read_nil, read_cons, if_pos rfl] at this
      exact absurd this.symm hn.2.2.1
  | cons c m ih =>
    rw [wfFrom_cons] at hm
    cases n with
    | nil =>
      have := h c.1
      rw [read_nil, read_cons, if_pos rfl] at this
      exact absurd this hm.2.2.1
    | cons d n =>
      rw [wfFrom_cons] at hn
      have below : ∀ {k : Nat} {x : Memory} {j : Nat}, x.wfFrom (k + 1) = true → j ≤ k → x.read j = Memory.unlisted :=
        fun hx hj => read_eq_unlisted fun e he => by have := le_of_wfFrom hx e he; omega
      have hcd : c.1 = d.1 := by
        rcases Nat.lt_trichotomy c.1 d.1 with hlt | heq | hgt
        · have := h c.1
          rw [read_cons, if_pos rfl, read_cons, if_neg (by omega), below hn.2.2.2 (by omega)] at this
          exact absurd this hm.2.2.1
        · exact heq
        · have := h d.1
          rw [read_cons, if_neg (by omega), read_cons, if_pos rfl, below hm.2.2.2 (by omega)] at this
          exact absurd this.symm hn.2.2.1
      have hv : c.2 = d.2 := by
        have := h c.1
        rwa [read_cons, if_pos rfl, read_cons, if_pos hcd.symm] at this
      have htail : m = n := by
        refine ih hm.2.2.2 (hcd ▸ hn.2.2.2) fun i => ?_
        have := h i
        rw [read_cons, read_cons] at this
        by_cases hi : c.1 = i
        · rw [below hm.2.2.2 (by omega), below hn.2.2.2 (by omega)]
        · rwa [if_neg hi, if_neg (by omega)] at this
      rw [htail, Prod.ext hcd hv]

/-- Canonical buffers that read alike are equal data. -/
theorem wf_ext {m n : Memory} (hm : m.wf = true) (hn : n.wf = true) (h : ∀ i, m.read i = n.read i) : m = n :=
  wfFrom_ext hm hn h

/-! ### Byte strings -/

@[simp] theorem memRead_length (m : Memory) (i n : Nat) : (memRead m i n).length = n := by
  induction n generalizing i with
  | zero => rfl
  | succ n ih => simp [memRead, ih]

/-- Byte `j` of what `MemRead` reads. -/
theorem memRead_getElem? (m : Memory) (i n j : Nat) :
    (memRead m i n)[j]? = if j < n then some (m.read (i + j)) else none := by
  induction n generalizing i j with
  | zero => simp [memRead]
  | succ n ih =>
    cases j with
    | zero => simp [memRead]
    | succ j =>
      simp only [memRead, List.getElem?_cons_succ, ih, Nat.add_lt_add_iff_right]
      rw [show i + 1 + j = i + (j + 1) by omega]

/-- Reading depends on the bytes read and nothing else. -/
theorem memRead_congr {m m' : Memory} {i i' n : Nat} (h : ∀ j < n, m.read (i + j) = m'.read (i' + j)) :
    memRead m i n = memRead m' i' n := by
  apply List.ext_getElem?
  intro j
  rw [memRead_getElem?, memRead_getElem?]
  split
  · rw [h j ‹_›]
  · rfl

/-- What `MemWrite` leaves: the bytes of the string in their places, every other byte as it was. -/
theorem read_memWrite (m : Memory) (i : Nat) (s : ByteString) (j : Nat) :
    (memWrite m i s).read j = if i ≤ j ∧ j < i + s.length then s.getD (j - i) 0x00 else m.read j := by
  induction s generalizing m i with
  | nil => rw [memWrite, if_neg (by simp)]
  | cons v s ih =>
    rw [memWrite, ih, read_write, List.length_cons]
    by_cases hj : j = i
    · rw [if_neg (by omega), if_pos hj, if_pos (by omega), hj, Nat.sub_self]
      rfl
    · by_cases hr : i + 1 ≤ j ∧ j < i + 1 + s.length
      · rw [if_pos hr, if_pos (by omega), show j - i = (j - (i + 1)) + 1 by omega]
        rfl
      · rw [if_neg hr, if_neg hj, if_neg (by omega)]

/-- `MemWrite` within the buffer keeps the canonical form. -/
theorem wf_memWrite {m : Memory} (hm : m.wf = true) {i : Nat} {s : ByteString} (h : i + s.length ≤ 256) :
    (memWrite m i s).wf = true := by
  induction s generalizing m i with
  | nil => exact hm
  | cons v s ih =>
    rw [List.length_cons] at h
    exact ih (wf_write hm (by omega) v) (by omega)

end Sys2Proof.Machine
end

