-- ==== Sys2Proof/Laws/State.lean ====
section
/-! SUPPORT. What each update of State leaves in each field: one lemma a field, true by rfl. -/

namespace Sys2Proof.Machine

/-! ### `setOutcome` -/

@[simp] theorem setOutcome_status (k : Kind) (st : Stage) (i : Half) (b : Block) : (setOutcome k st i b).status = code k := rfl
@[simp] theorem setOutcome_cfgLock (k : Kind) (st : Stage) (i : Half) (b : Block) : (setOutcome k st i b).cfgLock = b.cfgLock := rfl
@[simp] theorem setOutcome_keyOk (k : Kind) (st : Stage) (i : Half) (b : Block) : (setOutcome k st i b).keyOk = b.keyOk := rfl
@[simp] theorem setOutcome_recValid (k : Kind) (st : Stage) (i : Half) (b : Block) : (setOutcome k st i b).recValid = b.recValid := rfl
@[simp] theorem setOutcome_errStage (k : Kind) (st : Stage) (i : Half) (b : Block) : (setOutcome k st i b).errStage = stageCode st := rfl
@[simp] theorem setOutcome_errInfo (k : Kind) (st : Stage) (i : Half) (b : Block) : (setOutcome k st i b).errInfo = i := rfl
@[simp] theorem setOutcome_outLen (k : Kind) (st : Stage) (i : Half) (b : Block) : (setOutcome k st i b).outLen = b.outLen := rfl
@[simp] theorem setOutcome_inLen (k : Kind) (st : Stage) (i : Half) (b : Block) : (setOutcome k st i b).inLen = b.inLen := rfl
@[simp] theorem setOutcome_advVid (k : Kind) (st : Stage) (i : Half) (b : Block) : (setOutcome k st i b).advVid = b.advVid := rfl
@[simp] theorem setOutcome_expVid (k : Kind) (st : Stage) (i : Half) (b : Block) : (setOutcome k st i b).expVid = b.expVid := rfl
@[simp] theorem setOutcome_keyLen (k : Kind) (st : Stage) (i : Half) (b : Block) : (setOutcome k st i b).keyLen = b.keyLen := rfl
@[simp] theorem setOutcome_key (k : Kind) (st : Stage) (i : Half) (b : Block) : (setOutcome k st i b).key = b.key := rfl
@[simp] theorem setOutcome_record (k : Kind) (st : Stage) (i : Half) (b : Block) : (setOutcome k st i b).record = b.record := rfl
@[simp] theorem setOutcome_ibuf (k : Kind) (st : Stage) (i : Half) (b : Block) : (setOutcome k st i b).ibuf = b.ibuf := rfl
@[simp] theorem setOutcome_obuf (k : Kind) (st : Stage) (i : Half) (b : Block) : (setOutcome k st i b).obuf = b.obuf := rfl

/-! ### `failNothing` -/

@[simp] theorem failNothing_status (b : Block) : (failNothing b).status = b.status := rfl
@[simp] theorem failNothing_cfgLock (b : Block) : (failNothing b).cfgLock = b.cfgLock := rfl
@[simp] theorem failNothing_keyOk (b : Block) : (failNothing b).keyOk = b.keyOk := rfl
@[simp] theorem failNothing_recValid (b : Block) : (failNothing b).recValid = b.recValid := rfl
@[simp] theorem failNothing_errStage (b : Block) : (failNothing b).errStage = b.errStage := rfl
@[simp] theorem failNothing_errInfo (b : Block) : (failNothing b).errInfo = b.errInfo := rfl
@[simp] theorem failNothing_outLen (b : Block) : (failNothing b).outLen = b.outLen := rfl
@[simp] theorem failNothing_inLen (b : Block) : (failNothing b).inLen = b.inLen := rfl
@[simp] theorem failNothing_advVid (b : Block) : (failNothing b).advVid = b.advVid := rfl
@[simp] theorem failNothing_expVid (b : Block) : (failNothing b).expVid = b.expVid := rfl
@[simp] theorem failNothing_keyLen (b : Block) : (failNothing b).keyLen = b.keyLen := rfl
@[simp] theorem failNothing_key (b : Block) : (failNothing b).key = b.key := rfl
@[simp] theorem failNothing_record (b : Block) : (failNothing b).record = b.record := rfl
@[simp] theorem failNothing_ibuf (b : Block) : (failNothing b).ibuf = b.ibuf := rfl
@[simp] theorem failNothing_obuf (b : Block) : (failNothing b).obuf = b.obuf := rfl

/-! ### `failOutput` -/

@[simp] theorem failOutput_status (b : Block) : (failOutput b).status = b.status := rfl
@[simp] theorem failOutput_cfgLock (b : Block) : (failOutput b).cfgLock = b.cfgLock := rfl
@[simp] theorem failOutput_keyOk (b : Block) : (failOutput b).keyOk = b.keyOk := rfl
@[simp] theorem failOutput_recValid (b : Block) : (failOutput b).recValid = b.recValid := rfl
@[simp] theorem failOutput_errStage (b : Block) : (failOutput b).errStage = b.errStage := rfl
@[simp] theorem failOutput_errInfo (b : Block) : (failOutput b).errInfo = b.errInfo := rfl
@[simp] theorem failOutput_outLen (b : Block) : (failOutput b).outLen = 0x0000 := rfl
@[simp] theorem failOutput_inLen (b : Block) : (failOutput b).inLen = b.inLen := rfl
@[simp] theorem failOutput_advVid (b : Block) : (failOutput b).advVid = b.advVid := rfl
@[simp] theorem failOutput_expVid (b : Block) : (failOutput b).expVid = b.expVid := rfl
@[simp] theorem failOutput_keyLen (b : Block) : (failOutput b).keyLen = b.keyLen := rfl
@[simp] theorem failOutput_key (b : Block) : (failOutput b).key = b.key := rfl
@[simp] theorem failOutput_record (b : Block) : (failOutput b).record = b.record := rfl
@[simp] theorem failOutput_ibuf (b : Block) : (failOutput b).ibuf = b.ibuf := rfl
@[simp] theorem failOutput_obuf (b : Block) : (failOutput b).obuf = b.obuf := rfl

/-! ### `failRecord` -/

@[simp] theorem failRecord_status (b : Block) : (failRecord b).status = b.status := rfl
@[simp] theorem failRecord_cfgLock (b : Block) : (failRecord b).cfgLock = b.cfgLock := rfl
@[simp] theorem failRecord_keyOk (b : Block) : (failRecord b).keyOk = b.keyOk := rfl
@[simp] theorem failRecord_recValid (b : Block) : (failRecord b).recValid = false := rfl
@[simp] theorem failRecord_errStage (b : Block) : (failRecord b).errStage = b.errStage := rfl
@[simp] theorem failRecord_errInfo (b : Block) : (failRecord b).errInfo = b.errInfo := rfl
@[simp] theorem failRecord_outLen (b : Block) : (failRecord b).outLen = b.outLen := rfl
@[simp] theorem failRecord_inLen (b : Block) : (failRecord b).inLen = b.inLen := rfl
@[simp] theorem failRecord_advVid (b : Block) : (failRecord b).advVid = b.advVid := rfl
@[simp] theorem failRecord_expVid (b : Block) : (failRecord b).expVid = b.expVid := rfl
@[simp] theorem failRecord_keyLen (b : Block) : (failRecord b).keyLen = b.keyLen := rfl
@[simp] theorem failRecord_key (b : Block) : (failRecord b).key = b.key := rfl
@[simp] theorem failRecord_record (b : Block) : (failRecord b).record = zeroRecord := rfl
@[simp] theorem failRecord_ibuf (b : Block) : (failRecord b).ibuf = b.ibuf := rfl
@[simp] theorem failRecord_obuf (b : Block) : (failRecord b).obuf = b.obuf := rfl

/-! ### `writeOutput` -/

@[simp] theorem writeOutput_status (s : ByteString) (b : Block) : (writeOutput s b).status = b.status := rfl
@[simp] theorem writeOutput_cfgLock (s : ByteString) (b : Block) : (writeOutput s b).cfgLock = b.cfgLock := rfl
@[simp] theorem writeOutput_keyOk (s : ByteString) (b : Block) : (writeOutput s b).keyOk = b.keyOk := rfl
@[simp] theorem writeOutput_recValid (s : ByteString) (b : Block) : (writeOutput s b).recValid = b.recValid := rfl
@[simp] theorem writeOutput_errStage (s : ByteString) (b : Block) : (writeOutput s b).errStage = b.errStage := rfl
@[simp] theorem writeOutput_errInfo (s : ByteString) (b : Block) : (writeOutput s b).errInfo = b.errInfo := rfl
@[simp] theorem writeOutput_outLen (s : ByteString) (b : Block) : (writeOutput s b).outLen = half s.length := rfl
@[simp] theorem writeOutput_inLen (s : ByteString) (b : Block) : (writeOutput s b).inLen = b.inLen := rfl
@[simp] theorem writeOutput_advVid (s : ByteString) (b : Block) : (writeOutput s b).advVid = b.advVid := rfl
@[simp] theorem writeOutput_expVid (s : ByteString) (b : Block) : (writeOutput s b).expVid = b.expVid := rfl
@[simp] theorem writeOutput_keyLen (s : ByteString) (b : Block) : (writeOutput s b).keyLen = b.keyLen := rfl
@[simp] theorem writeOutput_key (s : ByteString) (b : Block) : (writeOutput s b).key = b.key := rfl
@[simp] theorem writeOutput_record (s : ByteString) (b : Block) : (writeOutput s b).record = b.record := rfl
@[simp] theorem writeOutput_ibuf (s : ByteString) (b : Block) : (writeOutput s b).ibuf = b.ibuf := rfl
@[simp] theorem writeOutput_obuf (s : ByteString) (b : Block) : (writeOutput s b).obuf = memWrite b.obuf 0 s := rfl

/-! ### `writeRecord` -/

@[simp] theorem writeRecord_status (s : ByteString) (b : Block) : (writeRecord s b).status = b.status := rfl
@[simp] theorem writeRecord_cfgLock (s : ByteString) (b : Block) : (writeRecord s b).cfgLock = b.cfgLock := rfl
@[simp] theorem writeRecord_keyOk (s : ByteString) (b : Block) : (writeRecord s b).keyOk = b.keyOk := rfl
@[simp] theorem writeRecord_recValid (s : ByteString) (b : Block) : (writeRecord s b).recValid = true := rfl
@[simp] theorem writeRecord_errStage (s : ByteString) (b : Block) : (writeRecord s b).errStage = b.errStage := rfl
@[simp] theorem writeRecord_errInfo (s : ByteString) (b : Block) : (writeRecord s b).errInfo = b.errInfo := rfl
@[simp] theorem writeRecord_outLen (s : ByteString) (b : Block) : (writeRecord s b).outLen = b.outLen := rfl
@[simp] theorem writeRecord_inLen (s : ByteString) (b : Block) : (writeRecord s b).inLen = b.inLen := rfl
@[simp] theorem writeRecord_advVid (s : ByteString) (b : Block) : (writeRecord s b).advVid = b.advVid := rfl
@[simp] theorem writeRecord_expVid (s : ByteString) (b : Block) : (writeRecord s b).expVid = b.expVid := rfl
@[simp] theorem writeRecord_keyLen (s : ByteString) (b : Block) : (writeRecord s b).keyLen = b.keyLen := rfl
@[simp] theorem writeRecord_key (s : ByteString) (b : Block) : (writeRecord s b).key = b.key := rfl
@[simp] theorem writeRecord_record (s : ByteString) (b : Block) : (writeRecord s b).record = recordBytes s := rfl
@[simp] theorem writeRecord_ibuf (s : ByteString) (b : Block) : (writeRecord s b).ibuf = b.ibuf := rfl
@[simp] theorem writeRecord_obuf (s : ByteString) (b : Block) : (writeRecord s b).obuf = b.obuf := rfl

/-! ### `succeed` -/

@[simp] theorem succeed_status (b : Block) : (succeed b).status = 0x01 := rfl
@[simp] theorem succeed_cfgLock (b : Block) : (succeed b).cfgLock = b.cfgLock := rfl
@[simp] theorem succeed_keyOk (b : Block) : (succeed b).keyOk = b.keyOk := rfl
@[simp] theorem succeed_recValid (b : Block) : (succeed b).recValid = b.recValid := rfl
@[simp] theorem succeed_errStage (b : Block) : (succeed b).errStage = 0x00 := rfl
@[simp] theorem succeed_errInfo (b : Block) : (succeed b).errInfo = 0x0000 := rfl
@[simp] theorem succeed_outLen (b : Block) : (succeed b).outLen = b.outLen := rfl
@[simp] theorem succeed_inLen (b : Block) : (succeed b).inLen = b.inLen := rfl
@[simp] theorem succeed_advVid (b : Block) : (succeed b).advVid = b.advVid := rfl
@[simp] theorem succeed_expVid (b : Block) : (succeed b).expVid = b.expVid := rfl
@[simp] theorem succeed_keyLen (b : Block) : (succeed b).keyLen = b.keyLen := rfl
@[simp] theorem succeed_key (b : Block) : (succeed b).key = b.key := rfl
@[simp] theorem succeed_record (b : Block) : (succeed b).record = b.record := rfl
@[simp] theorem succeed_ibuf (b : Block) : (succeed b).ibuf = b.ibuf := rfl
@[simp] theorem succeed_obuf (b : Block) : (succeed b).obuf = b.obuf := rfl

/-! ### `raise` -/

@[simp] theorem raise_status (fail : Block → Block) (k : Kind) (st : Stage) (i : Half) (b : Block) : (raise fail k st i b).status = code k := rfl
@[simp] theorem raise_cfgLock (fail : Block → Block) (k : Kind) (st : Stage) (i : Half) (b : Block) : (raise fail k st i b).cfgLock = (fail b).cfgLock := rfl
@[simp] theorem raise_keyOk (fail : Block → Block) (k : Kind) (st : Stage) (i : Half) (b : Block) : (raise fail k st i b).keyOk = (fail b).keyOk := rfl
@[simp] theorem raise_recValid (fail : Block → Block) (k : Kind) (st : Stage) (i : Half) (b : Block) : (raise fail k st i b).recValid = (fail b).recValid := rfl
@[simp] theorem raise_errStage (fail : Block → Block) (k : Kind) (st : Stage) (i : Half) (b : Block) : (raise fail k st i b).errStage = stageCode st := rfl
@[simp] theorem raise_errInfo (fail : Block → Block) (k : Kind) (st : Stage) (i : Half) (b : Block) : (raise fail k st i b).errInfo = i := rfl
@[simp] theorem raise_outLen (fail : Block → Block) (k : Kind) (st : Stage) (i : Half) (b : Block) : (raise fail k st i b).outLen = (fail b).outLen := rfl
@[simp] theorem raise_inLen (fail : Block → Block) (k : Kind) (st : Stage) (i : Half) (b : Block) : (raise fail k st i b).inLen = (fail b).inLen := rfl
@[simp] theorem raise_advVid (fail : Block → Block) (k : Kind) (st : Stage) (i : Half) (b : Block) : (raise fail k st i b).advVid = (fail b).advVid := rfl
@[simp] theorem raise_expVid (fail : Block → Block) (k : Kind) (st : Stage) (i : Half) (b : Block) : (raise fail k st i b).expVid = (fail b).expVid := rfl
@[simp] theorem raise_keyLen (fail : Block → Block) (k : Kind) (st : Stage) (i : Half) (b : Block) : (raise fail k st i b).keyLen = (fail b).keyLen := rfl
@[simp] theorem raise_key (fail : Block → Block) (k : Kind) (st : Stage) (i : Half) (b : Block) : (raise fail k st i b).key = (fail b).key := rfl
@[simp] theorem raise_record (fail : Block → Block) (k : Kind) (st : Stage) (i : Half) (b : Block) : (raise fail k st i b).record = (fail b).record := rfl
@[simp] theorem raise_ibuf (fail : Block → Block) (k : Kind) (st : Stage) (i : Half) (b : Block) : (raise fail k st i b).ibuf = (fail b).ibuf := rfl
@[simp] theorem raise_obuf (fail : Block → Block) (k : Kind) (st : Stage) (i : Half) (b : Block) : (raise fail k st i b).obuf = (fail b).obuf := rfl

/-! ### The machine around the block -/

@[simp] theorem withBlock_block (s : State) (b : Block) : (s.withBlock b).block = b := rfl
@[simp] theorem withBlock_pending (s : State) (b : Block) : (s.withBlock b).pending = s.pending := rfl
@[simp] theorem withBlock_reads (s : State) (b : Block) : (s.withBlock b).reads = s.reads := rfl
@[simp] theorem returnByte_block (s : State) (v : Byte) : (s.returnByte v).block = s.block := rfl
@[simp] theorem returnByte_pending (s : State) (v : Byte) : (s.returnByte v).pending = s.pending := rfl
@[simp] theorem returnByte_reads (s : State) (v : Byte) : (s.returnByte v).reads = s.reads ++ [v] := rfl
@[simp] theorem resetBlock_block (s : State) : (resetBlock s).block = Block.reset := rfl
@[simp] theorem resetBlock_pending (s : State) : (resetBlock s).pending = s.pending := rfl
@[simp] theorem resetBlock_reads (s : State) : (resetBlock s).reads = s.reads := rfl
@[simp] theorem withBlock_self (s : State) : s.withBlock s.block = s := rfl
@[simp] theorem withBlock_withBlock (s : State) (b c : Block) : (s.withBlock b).withBlock c = s.withBlock c := rfl

end Sys2Proof.Machine
end

