-- ==== Sys2Proof/Laws/Ops.lean ====
section
/-! SUPPORT. What each shared operation can do, said once: operand assembly, the register map, the meanings' shapes
and one step. -/

namespace Sys2Proof.Machine

/-! ### Operands -/

@[simp] theorem half_toNat (n : Nat) : (half n).toNat = n % 65536 := by simp [half]

@[simp] theorem half_operandLength (b : Block) : half (operandLength b) = b.inLen := by simp [half, operandLength]

@[simp] theorem be16_toNat (h l : Byte) : (be16 h l).toNat = h.toNat * 256 + l.toNat := by
  have := h.isLt
  have := l.isLt
  rw [be16, BitVec.toNat_ofNat]
  omega

@[simp] theorem hiByte_toNat (v : Half) : (hiByte v).toNat = v.toNat / 256 := by
  have := v.isLt
  rw [hiByte, BitVec.extractLsb'_toNat, Nat.shiftRight_eq_div_pow]
  omega

@[simp] theorem loByte_toNat (v : Half) : (loByte v).toNat = v.toNat % 256 := by
  simp [loByte, BitVec.extractLsb'_toNat]

@[simp] theorem zext16_toNat (b : Byte) : (zext16 b).toNat = b.toNat := by
  have := b.isLt
  simp [zext16]
  omega

@[simp] theorem be16_hi_lo (v : Half) : be16 (hiByte v) (loByte v) = v :=
  BitVec.eq_of_toNat_eq (by simp only [be16_toNat, hiByte_toNat, loByte_toNat]; omega)

@[simp] theorem hiByte_be16 (h l : Byte) : hiByte (be16 h l) = h := by
  have := l.isLt
  exact BitVec.eq_of_toNat_eq (by simp only [be16_toNat, hiByte_toNat]; omega)

@[simp] theorem loByte_be16 (h l : Byte) : loByte (be16 h l) = l := by
  have := l.isLt
  exact BitVec.eq_of_toNat_eq (by simp only [be16_toNat, loByte_toNat]; omega)

@[simp] theorem operand_length (b : Block) (n : Nat) : (operand b n).length = n := memRead_length _ _ _

@[simp] theorem keyString_length (b : Block) : (keyString b).length = 16 := by simp [keyString]

theorem isNotBlocks_iff (n : Nat) : isNotBlocks n = true ↔ n = 0 ∨ n % 16 ≠ 0 := by simp [isNotBlocks]

theorem isNotBlocks_eq_false (n : Nat) : isNotBlocks n = false ↔ n ≠ 0 ∧ n % 16 = 0 := by simp [isNotBlocks]

/-- The bytes of REC are the body's (R34). -/
theorem recordBytes_toList {s : ByteString} (h : s.length = 8) : (recordBytes s).toList = s := by
  match s, h with
  | [_, _, _, _, _, _, _, _], _ => rfl

@[simp] theorem zeroRecord_eq : zeroRecord = Vector.replicate 8 0x00 := rfl

/-! ### The register map -/

theorem locate_cmd : locate 0x000 = .cmd := rfl

/-- Only address 0x000 is CMD (R68). -/
theorem locate_eq_cmd {a : Addr} : locate a = .cmd ↔ a = 0x000 := by
  revert a; decide +kernel

/-- A KEY address (R33). -/
theorem locate_key (i : Fin 16) : locate (BitVec.ofNat 10 (0x010 + i)) = .key i := by
  revert i; decide

/-- A REC address (R34). -/
theorem locate_record (i : Fin 8) : locate (BitVec.ofNat 10 (0x020 + i)) = .record i := by
  revert i; decide

/-- An IBUF address (R35). -/
theorem locate_ibuf (i : Fin 256) : locate (BitVec.ofNat 10 (0x100 + i)) = .ibuf i := by
  revert i; decide +kernel

/-- An OBUF address (R36). -/
theorem locate_obuf (i : Fin 256) : locate (BitVec.ofNat 10 (0x200 + i)) = .obuf i := by
  revert i; decide +kernel

/-- The reserved addresses (R37). -/
theorem locate_reserved (a : Addr) (h : a = 0x00F ∨ (0x028 ≤ a ∧ a < 0x100) ∨ 0x300 ≤ a) : locate a = .reserved := by
  revert a; decide +kernel

/-! ### The meanings -/

theorem exec_nop (s : State) : exec .nop s = .next s := rfl
theorem exec_config (s : State) : exec .config s = .next (s.withBlock (configure s.block)) := rfl
theorem exec_decrypt (s : State) : exec .decrypt s = .next (s.withBlock (decryptCommand s.block)) := rfl
theorem exec_unpad (s : State) : exec .unpad s = .next (s.withBlock (unpadCommand s.block)) := rfl
theorem exec_parse (s : State) : exec .parse s = .next (s.withBlock (parseCommand s.block)) := rfl
theorem exec_decode (s : State) : exec .decode s = .next (s.withBlock (decodeCommand s.block)) := rfl
theorem exec_hostRd (a : Addr) (s : State) : exec (.hostRd a) s = .next (s.returnByte (hostRead a s.block)) := rfl

/-- A host write to CMD performs its command (R67). -/
theorem exec_hostWr_cmd (v : Byte) (s : State) : exec (.hostWr 0x000 v) s = performCommand v s := rfl

/-- A host write elsewhere stores its byte as the register map says (R67). -/
theorem exec_hostWr_of_ne {a : Addr} (h : a ≠ 0x000) (v : Byte) (s : State) :
    exec (.hostWr a v) s = .next (s.withBlock (hostWrite a v s.block)) := by
  have hl : locate a ≠ .cmd := fun hc => h (locate_eq_cmd.mp hc)
  simp only [exec, execHostWr, hostWrite]

/-- What CONFIG can do: be turned away, or lock with a right or a wrong key length (R111). -/
theorem configure_cases (b : Block) :
    (b.cfgLock = true ∧ configure b = raise failNothing .alreadyConfigured .interface 0x0000 b) ∨
    (b.cfgLock = false ∧ b.keyLen.toNat = 16 ∧ configure b = succeed { b with cfgLock := true, keyOk := true }) ∨
    (b.cfgLock = false ∧ b.keyLen.toNat ≠ 16 ∧ configure b =
      raise failNothing .invalidKeySize .config (zext16 b.keyLen) { b with cfgLock := true, keyOk := false }) := by
  unfold configure
  by_cases hl : b.cfgLock = true
  · exact .inl ⟨hl, if_pos hl⟩
  · rw [if_neg hl]
    have hl' : b.cfgLock = false := by simpa using hl
    by_cases hk : b.keyLen.toNat = 16
    · exact .inr (.inl ⟨hl', hk, if_pos hk⟩)
    · exact .inr (.inr ⟨hl', hk, if_neg hk⟩)

/-- What DECRYPT can do: fail with OUT_LEN cleared, or write the decrypted blocks (R130). -/
theorem decryptCommand_cases (b : Block) :
    (∃ k st i, (k, st) ∈ [(Kind.notConfigured, Stage.interface), (.invalidKeySize, .decrypt),
        (.invalidCiphertextLength, .decrypt), (.lengthOverflow, .interface)] ∧
      decryptCommand b = raise failOutput k st i b) ∨
    (operandLength b % 16 = 0 ∧ operandLength b ≤ 256 ∧ b.cfgLock = true ∧ b.keyOk = true ∧
      decryptCommand b = succeed (writeOutput (ecbDecrypt (keyString b) (operand b (operandLength b))) b)) := by
  unfold decryptCommand
  dsimp only
  split
  · exact .inl ⟨_, _, _, by simp, rfl⟩
  split
  · exact .inl ⟨_, _, _, by simp, rfl⟩
  split
  · exact .inl ⟨_, _, _, by simp, rfl⟩
  split
  · exact .inl ⟨_, _, _, by simp, rfl⟩
  rename_i h1 h2 h3 h4
  have h3' := (isNotBlocks_eq_false _).mp (by simpa using h3)
  exact .inr ⟨h3'.2, by simpa using h4, by simpa using h1, by simpa using h2, rfl⟩

/-- What UNPAD can do: fail with OUT_LEN cleared, or write the message (R170). -/
theorem unpadCommand_cases (b : Block) :
    (∃ k st i, (k, st) ∈ [(Kind.invalidPaddingSize, Stage.unpad), (.lengthOverflow, .interface),
        (.invalidPaddingValue, .unpad), (.invalidPaddingBytes, .unpad)] ∧
      unpadCommand b = raise failOutput k st i b) ∨
    (operandLength b ≤ 256 ∧ unpadCommand b = succeed (writeOutput (unpadded (operand b (operandLength b))) b)) := by
  unfold unpadCommand
  dsimp only
  split
  · exact .inl ⟨_, _, _, by simp, rfl⟩
  split
  · exact .inl ⟨_, _, _, by simp, rfl⟩
  split
  · exact .inl ⟨_, _, _, by simp, rfl⟩
  split
  · exact .inl ⟨_, _, _, by simp, rfl⟩
  rename_i h2 _ _
  exact .inr ⟨by simpa using h2, rfl⟩

/-- What PARSE can do: fail with REC cleared, or latch the body (R190). -/
theorem parseCommand_cases (b : Block) :
    (operandLength b = 8 ∧ parseCommand b = succeed (writeRecord (operand b 8) b)) ∨
    (operandLength b ≠ 8 ∧
      parseCommand b = raise failRecord .unexpectedBodyLength .parse (half (operandLength b)) b) := by
  by_cases h : operandLength b = 8
  · exact .inl ⟨h, if_pos h⟩
  · exact .inr ⟨h, if_neg h⟩

/-- What the last stages of DECODE can do: fail with REC cleared, or latch the body (R210). -/
theorem decodePlaintext_cases (p : ByteString) (b : Block) :
    (∃ k st i, (k, st) ∈ [(Kind.invalidPaddingValue, Stage.unpad), (.invalidPaddingBytes, .unpad),
        (.unexpectedBodyLength, .parse)] ∧ decodePlaintext p b = raise failRecord k st i b) ∨
    (badPadValue p = false ∧ badPadBytes p = false ∧ padCount p = 8 ∧
      decodePlaintext p b = succeed (writeRecord (p.take 8) b)) := by
  unfold decodePlaintext
  split
  · exact .inl ⟨_, _, _, by simp, rfl⟩
  split
  · exact .inl ⟨_, _, _, by simp, rfl⟩
  split
  · rename_i h1 h2 h3
    simp only [Config.blockBytes, Config.bodyBytes] at h3
    exact .inr ⟨by simpa using h1, by simpa using h2, by omega, rfl⟩
  · exact .inl ⟨_, _, _, by simp, rfl⟩

/-- What DECODE can do: fail with REC cleared, or latch the body of a 16-byte plaintext (R210). -/
theorem decodeCommand_cases (b : Block) :
    (∃ k st i, (k, st) ∈ [(Kind.notConfigured, Stage.interface), (.notApplicable, .filter),
        (.malformedLength, .extract), (.invalidKeySize, .decrypt), (.invalidPaddingValue, .unpad),
        (.invalidPaddingBytes, .unpad), (.unexpectedBodyLength, .parse)] ∧
      decodeCommand b = raise failRecord k st i b) ∨
    (∃ c, b.cfgLock = true ∧ b.advVid = b.expVid ∧ extractCiphertext b.ibuf (operandLength b) = some c ∧
      b.keyOk = true ∧ padCount (ecbDecrypt (keyString b) c) = 8 ∧
      decodeCommand b = succeed (writeRecord ((ecbDecrypt (keyString b) c).take 8) b)) := by
  unfold decodeCommand
  split
  · exact .inl ⟨_, _, _, by simp, rfl⟩
  split
  · exact .inl ⟨_, _, _, by simp, rfl⟩
  split
  · exact .inl ⟨_, _, _, by simp, rfl⟩
  split
  · exact .inl ⟨_, _, _, by simp, rfl⟩
  rename_i h1 h2 _ c hc h4
  rcases decodePlaintext_cases (ecbDecrypt (keyString b) c) b with ⟨k, st, i, hk, he⟩ | ⟨_, _, hp, he⟩
  · refine .inl ⟨k, st, i, ?_, he⟩
    simp only [List.mem_cons, List.not_mem_nil, or_false] at hk ⊢
    rcases hk with hk | hk | hk <;> simp [hk]
  · exact .inr ⟨c, by simpa using h1, by simpa using h2, hc, by simpa using h4, hp, he⟩

/-- An extracted ciphertext is 16 bytes (R210, R213). -/
theorem extractCiphertext_length {m : Memory} {n : Nat} {c : ByteString} (h : extractCiphertext m n = some c) :
    c.length = 16 := by
  unfold extractCiphertext at h
  split at h
  · cases h; simp
  · split at h
    · cases h; simp
    · cases h

/-! ### One step -/

/-- Everything a step can do (R8): idle, a reset, an instruction, or an illegal command. -/
theorem step_cases {s t : State} (h : step s = .next t) :
    (s.pending = [] ∧ t = s) ∨
    (∃ rest, s.pending = .reset :: rest ∧ t = resetBlock { s with pending := rest }) ∨
    (∃ tx rest i, s.pending = .tx tx :: rest ∧ decode tx = .ok i ∧ exec i { s with pending := rest } = .next t) ∨
    (∃ tx rest op, s.pending = .tx tx :: rest ∧ decode tx = .error (.illegalCommand op) ∧
      t = ({ s with pending := rest } : State).withBlock (illegal op s.block)) := by
  unfold step takeEvent at h
  rcases hp : s.pending with _ | ⟨e, rest⟩
  · rw [hp] at h
    exact .inl ⟨rfl, by simpa using h.symm⟩
  · rw [hp] at h
    cases e with
    | reset => exact .inr (.inl ⟨rest, rfl, by simpa [runEvent] using h.symm⟩)
    | tx tx =>
      simp only [runEvent] at h
      split at h
      · rename_i i hd
        exact .inr (.inr (.inl ⟨tx, rest, i, rfl, hd, h⟩))
      · rename_i op hd
        exact .inr (.inr (.inr ⟨tx, rest, op, rfl, hd, by simpa [execIllegal] using h.symm⟩))

/-- Everything performing a command byte can do (R113). -/
theorem performCommand_cases (op : Byte) (s : State) :
    performCommand op s = .next s ∨
    ∃ b, performCommand op s = .next (s.withBlock b) ∧
      (b = configure s.block ∨ b = decryptCommand s.block ∨ b = unpadCommand s.block ∨ b = parseCommand s.block ∨
        b = decodeCommand s.block ∨ b = illegal op s.block) := by
  unfold performCommand
  repeat' split
  · exact .inl rfl
  all_goals exact .inr ⟨_, rfl, by simp⟩

end Sys2Proof.Machine
end

