-- ==== Sys2Proof/Laws/PerInstr.lean ====
section
/-! SUPPORT. Facts about every instruction as syntax, one lemma a constructor. -/

/-- The word of an instruction fits in the bits it is said to take. -/
def Sys2Proof.Laws.EncodedWordFits.Statement (i : Sys2Proof.Instr) : Prop :=
  (Sys2Proof.encodeTableWord i).2 < 2 ^ (Sys2Proof.encodeTableWord i).1

namespace Sys2Proof.Laws.EncodedWordFits

theorem nop : Statement .nop := by unfold Statement; decide
theorem config : Statement .config := by unfold Statement; decide
theorem decrypt : Statement .decrypt := by unfold Statement; decide
theorem unpad : Statement .unpad := by unfold Statement; decide
theorem parse : Statement .parse := by unfold Statement; decide
theorem decode : Statement .decode := by unfold Statement; decide
theorem hostRd (a : Addr) : Statement (.hostRd a) := by
  have := a.isLt
  simp only [Statement, encodeTableWord, encode, wordOfTx]
  omega
theorem hostWr (a : Addr) (v : Byte) : Statement (.hostWr a v) := by
  have ha := a.isLt
  have hv := v.isLt
  simp only [Statement, encodeTableWord, encode, wordOfTx]
  split <;> simp only <;> omega

end Sys2Proof.Laws.EncodedWordFits
end

