-- ==== Sys2Proof/Tests/Slice0.lean ====
section
/-! SUPPORT. The package's own tests: well-formedness, decoding of words written out from spec/30_encoding.md, one step
of each instruction with the expected values of spec/95_test_vectors.md, and a witness for every statement that has
hypotheses. -/

namespace Sys2Proof.Machine.Tests

open Sys2Proof.Claims

/-! ### Helpers -/

/-- K_T, the spec's test key (spec/95_test_vectors.md). -/
def kT : Vector Byte 16 :=
  #v[0x00, 0x01, 0x02, 0x03, 0x04, 0x05, 0x06, 0x07, 0x08, 0x09, 0x0A, 0x0B, 0x0C, 0x0D, 0x0E, 0x0F]

/-- The body of the source's scenario (vector X1), and its padded plaintext and ciphertext under K_T. -/
def bodyS : ByteString := [0x01, 0x02, 0x05, 0x00, 0xFA, 0x00, 0x32, 0x5A]
def plainS : ByteString := bodyS ++ [0x08, 0x08, 0x08, 0x08, 0x08, 0x08, 0x08, 0x08]
def cipherS : ByteString :=
  [0x06, 0x0C, 0xC6, 0x7B, 0x61, 0xF6, 0x77, 0xCD, 0xDF, 0x1A, 0x47, 0x62, 0x6B, 0x0E, 0x47, 0x9A]

/-- The ciphertexts of vectors DC16 (a bad padding value), DC18 (bad padding bytes) and DC20 (no body). -/
def cipherDC16 : ByteString :=
  [0x63, 0x4A, 0x9F, 0x8E, 0xD2, 0xC8, 0xAF, 0x9F, 0xC9, 0x99, 0x72, 0x7F, 0x3D, 0x75, 0xFC, 0x14]
def cipherDC18 : ByteString :=
  [0x36, 0x19, 0x7B, 0xAB, 0x70, 0xA3, 0xDF, 0xF7, 0x9E, 0xD0, 0xAB, 0xCD, 0x81, 0x40, 0x67, 0x2C]
def cipherDC20 : ByteString :=
  [0x95, 0x4F, 0x64, 0xF2, 0xE4, 0xE8, 0x6E, 0x9E, 0xEE, 0x82, 0xD2, 0x02, 0x16, 0x68, 0x48, 0x99]

/-- A machine as after reset, but for IN_LEN and IBUF. -/
def fresh (n : Half) (s : ByteString) : State :=
  State.reset.withBlock { Block.reset with inLen := n, ibuf := memWrite [] 0 s }

/-- A machine configured with K_T and vendor id 0xFFFF (the start state of the DECRYPT and DECODE vectors). -/
def configured (n : Half) (s : ByteString) : State :=
  State.reset.withBlock { Block.reset with
    status := 0x01, cfgLock := true, keyOk := true, keyLen := 0x10, key := kT, expVid := 0xFFFF, advVid := 0xFFFF,
    inLen := n, ibuf := memWrite [] 0 s }

/-- A machine configured with KEY_LEN = 15 (vectors CF3, DE15, DC12). -/
def badKey (n : Half) (s : ByteString) : State :=
  State.reset.withBlock { Block.reset with
    status := 0x11, errStage := 0x06, errInfo := 0x000F, cfgLock := true, keyLen := 0x0F, expVid := 0xFFFF,
    advVid := 0xFFFF, inLen := n, ibuf := memWrite [] 0 s }

/-- A machine with another advertised vendor id. -/
def advertised (v : Half) (s : State) : State := s.withBlock { s.block with advVid := v }

/-- A machine with an event issued next. -/
def issued (e : HostEvent) (s : State) : State := { s with pending := [e] }

/-- A write to CMD, issued. -/
def commanded (op : Byte) (s : State) : State := issued (.tx (.write 0x000 op)) s

/-- The state after one step that goes on. -/
def after (s : State) : State :=
  match step s with
  | .next t => t
  | .fault _ => s
  | .refused _ => s

/-- The block after an instruction that goes on. -/
def blockAfter (i : Instr) (s : State) : Option Block :=
  match exec i s with
  | .next t => some t.block
  | .fault _ => none
  | .refused _ => none

/-- STATUS, ERR_STAGE, ERR_INFO and the STATE byte after an instruction. -/
def outcome (i : Instr) (s : State) : Option (Byte × Byte × Half × Byte) :=
  (blockAfter i s).map (fun b => (b.status, b.errStage, b.errInfo, stateByte b))

/-- The output buffer's valid bytes after an instruction. -/
def output (i : Instr) (s : State) : Option ByteString :=
  (blockAfter i s).map (fun b => memRead b.obuf 0 b.outLen.toNat)

/-! ### Well-formed instructions -/

/-- A host write to CMD is no HOST_WR: it is the command (R23, R83). -/
theorem test_wellFormed_refuses_write_to_cmd : ∀ v : Byte, (Instr.hostWr 0x000 v).wellFormed = false := by decide

theorem test_wellFormed_accepts_the_rest :
    [Instr.nop, .config, .decrypt, .unpad, .parse, .decode, .hostRd 0x000, .hostWr 0x3FF 0xFF].all
      Instr.wellFormed = true := by decide

/-! ### Decoding: every constructor from a word written out from R81 and R83 -/

theorem test_decode_nop : decodeTableWord 8 0b00000000 = some .nop := by decide
theorem test_decode_config : decodeTableWord 8 0b00000001 = some .config := by decide
theorem test_decode_decrypt : decodeTableWord 8 0b00000010 = some .decrypt := by decide
theorem test_decode_unpad : decodeTableWord 8 0b00000011 = some .unpad := by decide
theorem test_decode_parse : decodeTableWord 8 0b00000100 = some .parse := by decide
theorem test_decode_decode : decodeTableWord 8 0b00000101 = some .decode := by decide

/-- The table's field of HOST_RD: the address in bits 9:0. -/
theorem test_decode_hostRd : decodeTableWord 16 0b0000000000100011 = some (.hostRd 0x023) := by decide

/-- The direction and the data byte of a write stand in bits 10 and 23:16 (log 5). -/
theorem test_decode_hostWr : decodeTableWord 24 0b010110100000011100001111 = some (.hostWr 0x30F 0x5A) := by decide

/-- The transactions of program P1's `bne 0x001, …`, `wr16 0x008, 0x0010` and `cmd DECODE` lines. -/
theorem test_decode_transactions :
    [HostTx.read 0x001, .write 0x008 0x00, .write 0x009 0x10, .write 0x000 0x05].map decode =
      [.ok (.hostRd 0x001), .ok (.hostWr 0x008 0x00), .ok (.hostWr 0x009 0x10), .ok .decode] := by decide

/-- Illegal command bytes are rejected by name (R82; vectors IL1, IL4). -/
theorem test_decode_illegal :
    decode (.write 0x000 0x06) = .error (.illegalCommand 0x06) ∧
    decode (.write 0x000 0xFF) = .error (.illegalCommand 0xFF) ∧ decodeTableWord 8 0xA5 = none := by decide

/-- No byte matches two rows of the opcode map. -/
theorem test_opcodeMap_disjoint :
    opcodeMap.Pairwise (fun r q => ∀ op : Byte, ¬(op &&& r.mask = r.pattern ∧ op &&& q.mask = q.pattern)) := by
  decide +kernel

/-- The first step after reset runs a word placed by `withFetchWord`. -/
theorem test_withFetchWord :
    step (State.reset.withFetchWord 8 0x04) = exec .parse State.reset ∧
    step (State.reset.withFetchWord 16 0x001) = exec (.hostRd 0x001) State.reset := ⟨rfl, rfl⟩

/-! ### One step of each instruction -/

/-- Vector NO2. -/
theorem test_nop : outcome .nop (after (commanded 0x02 (configured 15 []))) = some (0x12, 0x03, 0x000F, 0x03) := by
  decide

/-- Vectors CF1, CF3 and CF2. -/
theorem test_config :
    outcome .config (State.reset.withBlock { Block.reset with keyLen := 0x10 }) = some (0x01, 0x00, 0x0000, 0x03) ∧
    outcome .config (State.reset.withBlock { Block.reset with keyLen := 0x0F }) = some (0x11, 0x06, 0x000F, 0x01) ∧
    outcome .config State.reset = some (0x11, 0x06, 0x0000, 0x01) := by decide

/-- Vectors CF6 and CF7: ALREADY_CONFIGURED. -/
theorem test_config_twice :
    outcome .config (configured 0 []) = some (0x22, 0x07, 0x0000, 0x03) ∧
    outcome .config (badKey 0 []) = some (0x22, 0x07, 0x0000, 0x01) := by decide

/-- Vector DE1, the FIPS-197 Appendix C.1 block. -/
theorem test_decrypt :
    output .decrypt (configured 16
        [0x69, 0xC4, 0xE0, 0xD8, 0x6A, 0x7B, 0x04, 0x30, 0xD8, 0xCD, 0xB7, 0x80, 0x70, 0xB4, 0xC5, 0x5A]) =
      some [0x00, 0x11, 0x22, 0x33, 0x44, 0x55, 0x66, 0x77, 0x88, 0x99, 0xAA, 0xBB, 0xCC, 0xDD, 0xEE, 0xFF] := by
  decide +kernel

/-- Vectors DE9, DE12, DE14, DE16 and DE17. -/
theorem test_decrypt_errors :
    outcome .decrypt (configured 0 []) = some (0x12, 0x03, 0x0000, 0x03) ∧
    outcome .decrypt (configured 257 []) = some (0x12, 0x03, 0x0101, 0x03) ∧
    outcome .decrypt (configured 65520 []) = some (0x23, 0x07, 0xFFF0, 0x03) ∧
    outcome .decrypt (badKey 16 cipherS) = some (0x11, 0x03, 0x000F, 0x01) ∧
    outcome .decrypt (fresh 16 cipherS) = some (0x21, 0x07, 0x0000, 0x00) := by decide +kernel

/-- Vectors UP1, UP2 and UP3. -/
theorem test_unpad :
    output .unpad (fresh 16 plainS) = some bodyS ∧
    output .unpad (fresh 16 (List.replicate 16 0x10)) = some [] ∧
    output .unpad (fresh 16 [0x30, 0x31, 0x32, 0x33, 0x34, 0x35, 0x36, 0x37, 0x38, 0x39, 0x3A, 0x3B, 0x3C, 0x3D, 0x3E,
      0x01]) = some [0x30, 0x31, 0x32, 0x33, 0x34, 0x35, 0x36, 0x37, 0x38, 0x39, 0x3A, 0x3B, 0x3C, 0x3D, 0x3E] := by
  decide +kernel

/-- Vectors UP10, UP11, UP12, UP13 and UP15. -/
theorem test_unpad_errors :
    outcome .unpad (fresh 257 []) = some (0x13, 0x04, 0x0101, 0x00) ∧
    outcome .unpad (fresh 272 []) = some (0x23, 0x07, 0x0110, 0x00) ∧
    outcome .unpad (fresh 16 (plainS.take 15 ++ [0x00])) = some (0x14, 0x04, 0x0010, 0x00) ∧
    outcome .unpad (fresh 16 (plainS.take 15 ++ [0x11])) = some (0x14, 0x04, 0x0010, 0x00) ∧
    outcome .unpad (fresh 16 (bodyS ++ [0x07] ++ List.replicate 7 0x08)) = some (0x15, 0x04, 0x0010, 0x00) := by
  decide +kernel

/-- Vectors PA1 and PA9. -/
theorem test_parse :
    (blockAfter .parse (fresh 8 bodyS)).map (fun b => (b.record, stateByte b)) =
      some (#v[0x01, 0x02, 0x05, 0x00, 0xFA, 0x00, 0x32, 0x5A], 0x04) ∧
    outcome .parse (fresh 7 []) = some (0x16, 0x05, 0x0007, 0x00) := by decide +kernel

/-- The record of vector PA2, with its signs. -/
theorem test_parse_record :
    parse [0x2A, 0x03, 0xF8, 0xFF, 0x9C, 0x80, 0x00, 0xFF] = .ok
      { deviceId := 42, versionId := 3, flags := 0xF8, i2cFail := false, batLow := false, tmpFail := false,
        tmpX100 := -100, cpuX100 := -32768, temperatureC := -1, cpuTemperatureC := -32768 / 100,
        batteryPct := -1 } := by decide +kernel

/-- Vector DC3: an 18-byte payload. -/
theorem test_decode :
    (blockAfter .decode (configured 18 ([0xAB, 0xCD] ++ cipherS))).map (fun b => (b.status, b.record, stateByte b)) =
      some (0x01, #v[0x01, 0x02, 0x05, 0x00, 0xFA, 0x00, 0x32, 0x5A], 0x07) := by decide +kernel

/-- Vectors DC5, DC7, DC11, DC12, DC13 and DC14: the order of the checks. -/
theorem test_decode_errors :
    [advertised 0x1234 (configured 5 []), configured 17 [], fresh 16 cipherS, badKey 16 cipherS, badKey 17 [],
      advertised 0x1234 (badKey 16 cipherS)].map (outcome .decode) =
      [some (0x02, 0x01, 0x0000, 0x03), some (0x10, 0x02, 0x0011, 0x03), some (0x21, 0x07, 0x0000, 0x00),
       some (0x11, 0x03, 0x000F, 0x01), some (0x10, 0x02, 0x0011, 0x01), some (0x02, 0x01, 0x0000, 0x01)] := by
  decide +kernel

/-- Vectors IF1, IF3 (its read) and IF6: KEY and CMD read as zero, and a locked EXP_VID is kept. -/
theorem test_hostRd :
    [0x010, 0x01F, 0x000, 0x00C, 0x00D].map (fun a => hostRead a (configured 0 []).block) =
      [0x00, 0x00, 0x00, 0xFF, 0xFF] := by decide +kernel

/-- Vectors IF9 and IF4 as a host program: two big-endian registers written and read back. -/
theorem test_hostWr :
    (match runHost [.wr16 0x008 0x0123, .rd16 0x008, .wr16 0x00C 0x1234, .rd16 0x00C] 9 0 State.reset with
      | .ended s => s.reads
      | .running _ _ => []
      | .stopped => []) = [0x01, 0x23, 0x12, 0x34] := by decide +kernel

/-- A host program on a machine with an event pending: that event is taken first, and the program's last CMD write has
been taken when its run ends (log 16). -/
theorem test_hostProgram_pending :
    (match runHost [.cmd 0x00, .cmd 0x06] 9 0 (issued (.tx (.read 0x001)) State.reset) with
      | .ended s => (s.pending, s.reads, s.block.status)
      | .running _ s => (s.pending, s.reads, s.block.status)
      | .stopped => ([], [], 0x00)) = ([], [0x00], 0x20) := by decide +kernel

/-- Vectors IF2, IF3, IF5 and IF8: writes that are ignored. -/
theorem test_hostWr_ignored :
    [0x200, 0x00C, 0x00F, 0x0FF, 0x300, 0x020, 0x001, 0x002].map
      (fun a => blockAfter (.hostWr a 0xAA) (configured 0 [])) = List.replicate 8 (some (configured 0 []).block) := by
  decide +kernel

/-- Vector IL6: an illegal command keeps everything but its outcome. -/
theorem test_illegal :
    (after (commanded 0xA5 (configured 16 cipherS))).block =
      { (configured 16 cipherS).block with status := 0x20, errStage := 0x07, errInfo := 0x00A5 } := by decide +kernel

/-- A buffer write removes a byte that reads as an unlisted one, and keeps the order of indices. -/
theorem test_memory :
    memWrite [] 3 [0x07, 0x00, 0x09] = [(3, 0x07), (5, 0x09)] ∧ Memory.write [(3, 0x07), (5, 0x09)] 3 0x00 = [(5, 0x09)] ∧
    Memory.write [(3, 0x07), (5, 0x09)] 4 0x08 = [(3, 0x07), (4, 0x08), (5, 0x09)] ∧
    Memory.wf [(3, 0x07), (5, 0x09)] = true ∧ Memory.wf [(5, 0x09), (3, 0x07)] = false ∧
    Memory.wf [(3, 0x00)] = false ∧ Memory.wf [(256, 0x01)] = false := by decide +kernel

/-- Primitive checks of spec/95_test_vectors.md section 1. -/
theorem test_aes_primitives :
    xtime 0x57 = 0xAE ∧ mul 0x57 0x13 = 0xFE ∧ sbox 0x53 = 0xED ∧ invSbox 0xED = 0x53 ∧
    invMixColumn ⟨0x8E, 0x4D, 0xA1, 0xBC⟩ = ⟨0xDB, 0x13, 0x53, 0x45⟩ := by decide +kernel

/-- The last round key of K_T (spec/95_test_vectors.md section 1). -/
theorem test_keyExpansion :
    (keyExpansion kT.toList).drop 40 =
      [⟨0x13, 0x11, 0x1D, 0x7F⟩, ⟨0xE3, 0x94, 0x4A, 0x17⟩, ⟨0xF3, 0x07, 0xA7, 0x8B⟩, ⟨0x4D, 0x2B, 0x30, 0xC5⟩] := by
  decide +kernel

/-! ### Witnesses: states and operands that meet a statement's hypotheses, clause by clause -/

theorem witness_OpcodeMapTotal : (0x05 : Byte) < 0x06 ∧ (0x05 : Byte) < 0xFF := by decide

theorem witness_DecodeEncodeRoundTrip :
    (Instr.hostWr 0x001 0x00).wellFormed = true ∧ (Instr.hostWr 0x3FF 0xFF).wellFormed = true ∧
    (Instr.hostRd 0x000).wellFormed = true ∧ Instr.decode.wellFormed = true := by decide

theorem witness_StepRunsDecodedInstruction :
    (commanded 0x05 State.reset).pending = .tx (.write 0x000 0x05) :: [] ∧ Instr.decode.wellFormed = true ∧
    decode (.write 0x000 0x05) = .ok .decode := by decide

theorem witness_IllegalCommandOutcome :
    (0x05 : Byte) < 0x06 ∧ (commanded 0x06 State.reset).pending = .tx (.write 0x000 0x06) :: [] := by decide

theorem witness_ResetValues : (issued .reset (configured 16 cipherS)).pending = .reset :: [] := rfl

theorem witness_IdleStepHoldsState : (configured 16 cipherS).pending = [] := rfl

/-- The invariant holds of a configured machine that has a command issued, and the step goes on. -/
theorem witness_InvariantKeptByEveryStep :
    (commanded 0x02 (configured 16 cipherS)).Inv ∧
    step (commanded 0x02 (configured 16 cipherS)) = .next (after (commanded 0x02 (configured 16 cipherS))) := by
  refine ⟨?_, rfl⟩
  decide +kernel

theorem witness_ConfigurationLock :
    (configured 0 []).block.cfgLock = true ∧ ((0x00C : Addr) ≤ 0x00C ∧ (0x00C : Addr) < 0x020) ∧
    ((0x00C : Addr) ≤ 0x01F ∧ (0x01F : Addr) < 0x020) ∧ ¬takesReset (commanded 0x01 (configured 0 [])) ∧
    step (commanded 0x01 (configured 0 [])) = .next (after (commanded 0x01 (configured 0 []))) ∧
    takesReset (issued .reset (configured 0 [])) := by
  refine ⟨rfl, by decide, by decide, ?_, rfl, rfl⟩
  unfold takesReset
  decide

/-- A CONFIG that changes STATUS, a PARSE that changes REC, and an UNPAD that changes OUT_LEN. -/
theorem witness_WhoWritesTheResults :
    (step (commanded 0x01 State.reset) = .next (after (commanded 0x01 State.reset)) ∧
      (after (commanded 0x01 State.reset)).block.status ≠ State.reset.block.status) ∧
    (step (commanded 0x04 (fresh 8 bodyS)) = .next (after (commanded 0x04 (fresh 8 bodyS))) ∧
      (after (commanded 0x04 (fresh 8 bodyS))).block.record ≠ (fresh 8 bodyS).block.record) ∧
    (step (commanded 0x03 (fresh 16 plainS)) = .next (after (commanded 0x03 (fresh 16 plainS))) ∧
      (after (commanded 0x03 (fresh 16 plainS))).block.outLen ≠ (fresh 16 plainS).block.outLen) := by
  refine ⟨⟨rfl, by decide⟩, ⟨rfl, by decide +kernel⟩, ⟨rfl, by decide +kernel⟩⟩

theorem witness_CommandsKeepTheirOperands :
    Instr.nop ∈ [Instr.nop, .config, .decrypt, .unpad, .parse, .decode] ∧
    Instr.decode ∈ [Instr.nop, .config, .decrypt, .unpad, .parse, .decode] := by decide

theorem witness_NoneOnlyBeforeTheFirstCommand :
    Instr.config ∈ [Instr.config, .decrypt, .unpad, .parse, .decode] ∧ (0x05 : Byte) < 0x06 ∧
    step (commanded 0x00 State.reset) = .next (after (commanded 0x00 State.reset)) ∧
    (after (commanded 0x00 State.reset)).block.status = 0x00 := by
  refine ⟨by decide, by decide, rfl, rfl⟩

/-- Both ends of every range of the register map that a read names. -/
theorem witness_HostReadReturnsItsByte :
    ((0x010 : Addr) ≤ 0x01F ∧ (0x01F : Addr) < 0x020) ∧
    (0x020 : Addr).toNat = 0x020 + (0 : Fin 8) ∧ (0x027 : Addr).toNat = 0x020 + (7 : Fin 8) ∧
    (0x100 : Addr).toNat = 0x100 + (0 : Fin 256) ∧ (0x1FF : Addr).toNat = 0x100 + (255 : Fin 256) ∧
    (0x200 : Addr).toNat = 0x200 + (0 : Fin 256) ∧ (0x2FF : Addr).toNat = 0x200 + (255 : Fin 256) ∧
    ((0x028 : Addr) ≤ 0x0FF ∧ (0x0FF : Addr) < 0x100) ∧ (0x300 : Addr) ≤ 0x3FF := by decide

/-- Both ends of every range of the register map that a write names, unlocked and locked. -/
theorem witness_HostWriteStoresItsByte :
    State.reset.block.cfgLock = false ∧ (configured 0 []).block.cfgLock = true ∧
    (0x010 : Addr).toNat = 0x010 + (0 : Fin 16) ∧ (0x01F : Addr).toNat = 0x010 + (15 : Fin 16) ∧
    (0x100 : Addr).toNat = 0x100 + (0 : Fin 256) ∧ (0x1FF : Addr).toNat = 0x100 + (255 : Fin 256) ∧
    ((0x00C : Addr) ≤ 0x01F ∧ (0x01F : Addr) < 0x020 ∧ (0x01F : Addr) ≠ 0x00F) ∧
    ((0x001 : Addr) ≤ 0x007 ∧ (0x007 : Addr) < 0x008) ∧ ((0x020 : Addr) ≤ 0x0FF ∧ (0x0FF : Addr) < 0x100) ∧
    (0x200 : Addr) ≤ 0x3FF := by decide

theorem witness_CommandDispatch :
    (commanded 0x06 State.reset).pending = .tx (.write 0x000 0x06) :: [] ∧ (0x05 : Byte) < 0x06 ∧
    (0x05 : Byte) < 0xFF := by decide

theorem witness_ReadAfterHostWrite :
    ((0x008 : Addr) ≤ 0x00B ∧ (0x00B : Addr) < 0x00C) ∧ ((0x100 : Addr) ≤ 0x1FF ∧ (0x1FF : Addr) < 0x200) ∧
    ((0x00C : Addr) ≤ 0x00E ∧ (0x00E : Addr) < 0x00F ∧ State.reset.block.cfgLock = false) := by decide

theorem witness_SixteenBitRegistersBigEndian : State.reset.block.cfgLock = false := rfl

/-- A DECRYPT without a usable key, and a CONFIG with one. -/
theorem witness_KeyUnusedWithoutDecryption :
    ¬((commanded 0x02 (badKey 16 [])).block.cfgLock = true ∧ (commanded 0x02 (badKey 16 [])).block.keyOk = true) ∧
    (¬takesCommand (commanded 0x01 (configured 16 [])) 0x02 ∧
      ¬takesCommand (commanded 0x01 (configured 16 [])) 0x05) := by
  unfold takesCommand
  decide

theorem witness_ConfigFollowsItsRule :
    (configured 0 []).block.cfgLock = true ∧
    (State.reset.block.cfgLock = false ∧ State.reset.block.keyLen.toNat ≠ 16) ∧
    ((State.reset.withBlock { Block.reset with keyLen := 0x10 }).block.cfgLock = false ∧
      (State.reset.withBlock { Block.reset with keyLen := 0x10 }).block.keyLen.toNat = 16) := by decide

theorem witness_BadKeyPersists :
    (State.reset.block.cfgLock = false ∧ State.reset.block.keyLen ≠ 16) ∧
    ((badKey 16 []).block.cfgLock = true ∧ (badKey 16 []).block.keyOk = false ∧
      ¬takesReset (commanded 0x01 (badKey 16 [])) ∧
      step (commanded 0x01 (badKey 16 [])) = .next (after (commanded 0x01 (badKey 16 [])))) ∧
    ((badKey 16 []).block.advVid = (badKey 16 []).block.expVid ∧ (badKey 16 []).block.inLen = 16) ∧
    (advertised 0x1234 (badKey 16 [])).block.advVid ≠ (advertised 0x1234 (badKey 16 [])).block.expVid := by
  refine ⟨by decide, ⟨rfl, rfl, ?_, rfl⟩, by decide, by decide⟩
  unfold takesReset
  decide

/-- DECRYPT's clauses, its lengths at their boundaries. -/
theorem witness_DecryptFollowsItsRule :
    (fresh 16 cipherS).block.cfgLock = false ∧
    ((badKey 16 cipherS).block.cfgLock = true ∧ (badKey 16 cipherS).block.keyOk = false) ∧
    ((configured 0 []).block.cfgLock = true ∧ (configured 0 []).block.keyOk = true ∧
      (configured 0 []).block.inLen.toNat = 0 ∧ (configured 255 []).block.inLen.toNat % 16 ≠ 0) ∧
    ((configured 272 []).block.inLen.toNat % 16 = 0 ∧ 256 < (configured 272 []).block.inLen.toNat) ∧
    ((configured 256 []).block.inLen.toNat ≠ 0 ∧ (configured 256 []).block.inLen.toNat % 16 = 0 ∧
      (configured 256 []).block.inLen.toNat ≤ 256) := by
  refine ⟨rfl, by decide, ?_, ?_, ?_⟩ <;> decide

theorem witness_EcbBlocksIndependent : cipherS.length % 16 = 0 ∧ 0 < cipherS.length / 16 := by decide

theorem witness_InvCipherInvertsCipher : plainS.length = 16 := rfl

theorem witness_InvCipherBijective : cipherS.length = 16 := rfl

/-- UNPAD's clauses: lengths, a padding count of 0 and of 17, a wrong byte, and counts of 1 and 16. -/
theorem witness_UnpadFollowsItsRule :
    ((fresh 0 []).block.inLen.toNat = 0 ∧ (fresh 257 []).block.inLen.toNat % 16 ≠ 0) ∧
    ((fresh 272 []).block.inLen.toNat % 16 = 0 ∧ 256 < (fresh 272 []).block.inLen.toNat) ∧
    ((fresh 16 []).block.inLen.toNat ≠ 0 ∧ (fresh 16 []).block.inLen.toNat % 16 = 0 ∧
      (fresh 16 []).block.inLen.toNat ≤ 256) ∧
    ((fresh 16 []).block.ibuf.read 15).toNat < 1 ∧
    16 < ((fresh 16 (plainS.take 15 ++ [0x11])).block.ibuf.read 15).toNat ∧
    ((fresh 16 (bodyS ++ [0x07] ++ List.replicate 7 0x08)).block.ibuf.read 15).toNat = 8 ∧
    ((fresh 16 (bodyS ++ [0x07] ++ List.replicate 7 0x08)).block.ibuf.read 8).toNat ≠ 8 ∧
    (∀ j, 15 ≤ j → j < 16 → ((fresh 16 (plainS.take 15 ++ [0x01])).block.ibuf.read j).toNat = 1) ∧
    (∀ j, 0 ≤ j → j < 16 → ((fresh 16 (List.replicate 16 0x10)).block.ibuf.read j).toNat = 16) := by
  refine ⟨by decide, by decide, by decide, by decide, by decide +kernel, by decide +kernel, by decide +kernel,
    fun j h h' => ?_, fun j _ h' => ?_⟩
  · obtain rfl : j = 15 := by omega
    decide +kernel
  · revert j
    decide +kernel

theorem witness_ParseFollowsItsRule :
    (fresh 7 []).block.inLen.toNat ≠ 8 ∧ (fresh 9 []).block.inLen.toNat ≠ 8 ∧ (fresh 8 []).block.inLen.toNat = 8 := by
  decide

theorem witness_RecordRecoversBody : bodyS.length = 8 ∧ (bodyS ++ [0x08]).length ≠ 8 := by decide

theorem witness_RecordFieldsAreBitRanges : bodyS.length = 8 := rfl

/-- DECODE's early clauses, and the two payload lengths. -/
theorem witness_DecodeFollowsItsRule :
    (fresh 16 cipherS).block.cfgLock = false ∧
    ((configured 16 []).block.cfgLock = true ∧ (configured 16 []).block.advVid = (configured 16 []).block.expVid ∧
      (configured 16 []).block.keyOk = true) ∧
    (advertised 0x1234 (configured 5 [])).block.advVid ≠ (advertised 0x1234 (configured 5 [])).block.expVid ∧
    ((configured 17 []).block.inLen.toNat ≠ 16 ∧ (configured 17 []).block.inLen.toNat ≠ 18) ∧
    ((badKey 16 []).block.inLen.toNat = 16 ∧ (badKey 18 []).block.inLen.toNat = 18 ∧
      (badKey 16 []).block.keyOk = false) := by decide

/-- A plaintext for each of DECODE's clauses on the plaintext: vectors DC16, DC18, DC20, and DC3 behind its header. -/
theorem witness_DecodeFollowsItsRule_padValue :
    (byteAt (invCipher (configured 16 cipherDC16).block.key.toList
      (memRead (configured 16 cipherDC16).block.ibuf 0 16)) 15).toNat < 1 := by decide +kernel

theorem witness_DecodeFollowsItsRule_padBytes :
    ∃ plain, plain = invCipher (configured 16 cipherDC18).block.key.toList
      (memRead (configured 16 cipherDC18).block.ibuf 0 16) ∧
      (byteAt plain 15).toNat = 8 ∧ (byteAt plain 8).toNat ≠ 8 :=
  ⟨bodyS ++ [0x07] ++ List.replicate 7 0x08, by decide +kernel⟩

theorem witness_DecodeFollowsItsRule_length :
    ∃ plain, plain = invCipher (configured 16 cipherDC20).block.key.toList
      (memRead (configured 16 cipherDC20).block.ibuf 0 16) ∧ ∀ j < 16, (byteAt plain j).toNat = 16 :=
  ⟨List.replicate 16 0x10, by decide +kernel⟩

theorem witness_DecodeFollowsItsRule_record :
    ∃ plain, plain = invCipher (configured 18 ([0xAB, 0xCD] ++ cipherS)).block.key.toList
      (memRead (configured 18 ([0xAB, 0xCD] ++ cipherS)).block.ibuf 2 16) ∧
      ∀ j < 16, 8 ≤ j → (byteAt plain j).toNat = 8 :=
  ⟨plainS, by decide +kernel⟩

theorem witness_DecodeRefinesTheSource :
    ((configured 16 cipherS).block.cfgLock = true ∧ (configured 16 cipherS).block.configLegal ∧
      (configured 256 []).block.inLen.toNat ≤ 256) ∧
    ((badKey 257 []).block.configLegal ∧ 256 < (badKey 257 []).block.inLen.toNat ∧
      (badKey 257 []).block.advVid = (badKey 257 []).block.expVid) := by decide

theorem witness_ComponentsRefineTheSource :
    (configured 256 []).block.inLen.toNat ≤ 256 ∧ (configured 256 []).block.cfgLock = true ∧
    (configured 256 []).block.configLegal ∧ (badKey 16 []).block.configLegal := by decide

theorem witness_HeaderIndependence :
    (configured 18 ([0xAB, 0xCD] ++ cipherS)).block.inLen = 18 ∧ (configured 16 cipherS).block.inLen = 16 ∧
    (∀ i < 16, (configured 16 cipherS).block.ibuf.read i =
      (configured 18 ([0xAB, 0xCD] ++ cipherS)).block.ibuf.read (2 + i)) ∧
    (configured 16 cipherS).block.advVid = (configured 18 ([0xAB, 0xCD] ++ cipherS)).block.advVid ∧
    sameConfiguration (configured 18 ([0xAB, 0xCD] ++ cipherS)).block (configured 16 cipherS).block := by
  refine ⟨rfl, rfl, by decide +kernel, rfl, rfl, rfl, rfl, rfl, rfl⟩

/-- Two blocks that differ in a byte of IBUF beyond IN_LEN, in STATUS and in OUT_LEN. -/
theorem witness_DecodeDeterminedByOperands :
    sameDecodeOperands (configured 16 cipherS).block
      { (configured 16 (cipherS ++ [0x01])).block with status := 0x23, outLen := 0x0008 } := by
  refine ⟨rfl, rfl, by decide +kernel, rfl, rfl, rfl, rfl, rfl⟩

/-- The scenario of the source: the ciphertext is the forward cipher's of the padded body. -/
theorem witness_TelemetryRoundTrip :
    bodyS.length = 8 ∧ (configured 16 cipherS).block.cfgLock = true ∧ (configured 16 cipherS).block.keyOk = true ∧
    (configured 16 cipherS).block.advVid = (configured 16 cipherS).block.expVid ∧
    (configured 16 cipherS).block.inLen = 16 ∧
    memRead (configured 16 cipherS).block.ibuf 0 16 =
      ecbEncrypt (configured 16 cipherS).block.key.toList (pad bodyS) := by
  refine ⟨rfl, rfl, rfl, rfl, rfl, by decide +kernel⟩

/-- A buffer that differs beyond IN_LEN alone. -/
theorem witness_CommandsReadOnlyTheirOperand :
    ∀ j < min (fresh 16 plainS).block.inLen.toNat 256,
      Memory.read (memWrite [] 0 (plainS ++ [0x01])) j = (fresh 16 plainS).block.ibuf.read j := by decide +kernel

theorem witness_NoRecordButOnSuccess :
    (Instr.parse = .parse ∨ Instr.parse = .decode) ∧ (Instr.decode = .parse ∨ Instr.decode = .decode) := by decide

theorem witness_NoOutputButOnSuccess :
    (Instr.decrypt = .decrypt ∨ Instr.decrypt = .unpad) ∧ (Instr.unpad = .decrypt ∨ Instr.unpad = .unpad) := by decide

/-- The first and last word of the schedule's two rules. -/
theorem witness_KeyScheduleRecurrence : (4 ≤ 5 ∧ 43 < 44 ∧ 43 % 4 ≠ 0) ∧ (4 ≤ 4 ∧ 40 < 44 ∧ 40 % 4 = 0) := by decide

theorem witness_BusWindow :
    Config.fpsaBase + 1023 < Config.fpsaBase + 1024 ∧ Config.fpsaBase + 1024 ≤ Config.fpsaBase + 1024 := by omega

theorem witness_QuickCommands : (0x05 : Byte) < 0x06 ∧ (0x01 : Byte) ≠ 0x00 ∧ (0x05 : Byte) ≤ 0x05 := by decide

end Sys2Proof.Machine.Tests
end

section
/-! PROOFS. What a step does with the event it takes (spec/00_scope.md R8, R70). -/

namespace Sys2Proof.Machine

/-- Events are taken in issue order (R70). -/
theorem takeEvent_of_pending_cons {s : State} {e : HostEvent} {rest : List HostEvent} (h : s.pending = e :: rest) :
    takeEvent s = some (e, { s with pending := rest }) := by
  simp only [takeEvent, h]

theorem step_of_pending_cons {s : State} {e : HostEvent} {rest : List HostEvent} (h : s.pending = e :: rest) :
    step s = runEvent e { s with pending := rest } := by
  simp only [step, takeEvent_of_pending_cons h]

theorem runEvent_tx_of_decode_ok {t : HostTx} {i : Instr} (h : decode t = .ok i) (s : State) :
    runEvent (.tx t) s = exec i s := by
  simp only [runEvent, h]

/-- Settles O5: the step runs the event it takes, and that event's transaction runs what it decodes to. The decoder's
answer alone fixes the instruction, so well-formedness is not used. -/
theorem stepRunsDecodedInstruction : Obligations.StepRunsDecodedInstruction := by
  intro s t rest i hpending _ hdecode
  calc step s = runEvent (.tx t) { s with pending := rest } := step_of_pending_cons hpending
    _ = exec i { s with pending := rest } := runEvent_tx_of_decode_ok hdecode _

end Sys2Proof.Machine
end

section
/-! PROOFS. What each event leaves in the block, said once as a function of the event and the block
(spec/00_scope.md R8, spec/40_control.md R113), and the shapes in which a command can end
(spec/60_exceptions.md R241). -/

namespace Sys2Proof.Machine

open Sys2Proof.Claims

/-! ### The block after an event -/

/-- The block after the command of byte `op` (R113). `performCommand_eq` ties it to the model. -/
def commandEffect (op : Byte) (b : Block) : Block :=
  if op = 0x00 then b
  else if op = 0x01 then configure b
  else if op = 0x02 then decryptCommand b
  else if op = 0x03 then unpadCommand b
  else if op = 0x04 then parseCommand b
  else if op = 0x05 then decodeCommand b
  else illegal op b

/-- The block after an event (R8). `runEvent_eq` ties it to the model. -/
def eventEffect : HostEvent → Block → Block
  | .reset, _ => Block.reset
  | .tx (.read _), b => b
  | .tx (.write a v), b => if a = cmdAddr then commandEffect v b else hostWrite a v b

/-- The bytes an event returns to the host (R66). `runEvent_eq` ties it to the model. -/
def eventReads : HostEvent → Block → List Byte
  | .tx (.read a), b => [hostRead a b]
  | .reset, _ => []
  | .tx (.write _ _), _ => []

theorem performCommand_eq (op : Byte) (s : State) :
    performCommand op s = .next (s.withBlock (commandEffect op s.block)) := by
  unfold performCommand commandEffect
  split_ifs <;> rfl

/-- A command byte is one of the six of the opcode map or illegal (R81, R82). -/
theorem commandByte_cases (op : Byte) :
    op = 0x00 ∨ op = 0x01 ∨ op = 0x02 ∨ op = 0x03 ∨ op = 0x04 ∨ op = 0x05 ∨ 0x05 < op := by
  bv_omega

/-- A byte outside the opcode map is rejected by name (R82). -/
theorem decodeCmd_of_gt {op : Byte} (h : 0x05 < op) : decodeCmd op = .error (.illegalCommand op) := by
  have hrows : ∀ r ∈ opcodeMap, r.mask = 0xFF ∧ r.pattern ≤ 0x05 := by decide
  have hnone : opcodeMap.find? (fun r => op &&& r.mask == r.pattern) = none := by
    refine List.find?_eq_none.mpr fun r hr => ?_
    obtain ⟨hmask, hpattern⟩ := hrows r hr
    have hand : op &&& 0xFF = op := BitVec.and_allOnes
    rw [hmask, hand, beq_iff_eq]
    bv_omega
  simp only [decodeCmd, hnone]

theorem decode_write_of_ne {a : Addr} (h : a ≠ cmdAddr) (v : Byte) : decode (.write a v) = .ok (.hostWr a v) :=
  if_neg h

/-- An illegal command ends as ILLEGAL_COMMAND does (R112). -/
theorem commandEffect_of_gt {op : Byte} (h : 0x05 < op) (b : Block) : commandEffect op b = illegal op b := by
  obtain ⟨h0, h1, h2, h3, h4, h5⟩ :
      op ≠ 0x00 ∧ op ≠ 0x01 ∧ op ≠ 0x02 ∧ op ≠ 0x03 ∧ op ≠ 0x04 ∧ op ≠ 0x05 := by bv_omega
  rw [commandEffect, if_neg h0, if_neg h1, if_neg h2, if_neg h3, if_neg h4, if_neg h5]

@[simp] theorem eventEffect_write_cmd (op : Byte) (b : Block) :
    eventEffect (.tx (.write cmdAddr op)) b = commandEffect op b := rfl

theorem eventEffect_write_of_ne {a : Addr} (h : a ≠ cmdAddr) (v : Byte) (b : Block) :
    eventEffect (.tx (.write a v)) b = hostWrite a v b := if_neg h

/-- An event that writes CMD performs the command of its byte (R23, R113). -/
theorem runEvent_write_cmd (op : Byte) (s : State) :
    runEvent (.tx (.write cmdAddr op)) s = .next (s.withBlock (commandEffect op s.block)) := by
  rcases commandByte_cases op with rfl | rfl | rfl | rfl | rfl | rfl | h
  case inr.inr.inr.inr.inr.inr =>
    have herr : decode (.write cmdAddr op) = .error (.illegalCommand op) := decodeCmd_of_gt h
    simp only [runEvent, herr, execIllegal, commandEffect_of_gt h]
  all_goals rfl

/-- What an event does to the whole machine: `eventEffect` to the block and `eventReads` to the reads. -/
theorem runEvent_eq (e : HostEvent) (s : State) :
    runEvent e s = .next { block := eventEffect e s.block, pending := s.pending,
                           reads := s.reads ++ eventReads e s.block } := by
  have hreads : s.reads ++ [] = s.reads := List.append_nil _
  match e with
  | .reset => simp only [eventReads, hreads]; rfl
  | .tx (.read a) => exact runEvent_tx_of_decode_ok (i := .hostRd a) rfl s
  | .tx (.write a v) =>
    simp only [eventReads, hreads]
    by_cases ha : a = cmdAddr
    · subst ha
      exact runEvent_write_cmd v s
    · rw [runEvent_tx_of_decode_ok (decode_write_of_ne ha v), exec_hostWr_of_ne ha, eventEffect_write_of_ne ha]
      rfl

/-- An idle step changes nothing (R256). -/
theorem step_of_pending_nil {s : State} (h : s.pending = []) : step s = .next s := by
  simp only [step, takeEvent, h]

/-- A step takes the next event and does what that event does, whole (R8, R70). -/
theorem step_eq_of_pending_cons {s : State} {e : HostEvent} {rest : List HostEvent} (h : s.pending = e :: rest) :
    step s = .next { block := eventEffect e s.block, pending := rest, reads := s.reads ++ eventReads e s.block } := by
  rw [step_of_pending_cons h, runEvent_eq]

/-- Each of the six commands does in the block what its byte does (R81, R113). -/
theorem exec_command {i : Instr} (hi : i ∈ [Instr.nop, .config, .decrypt, .unpad, .parse, .decode]) :
    ∃ op, encode i = .write cmdAddr op ∧
      ∀ s : State, exec i s = .next (s.withBlock (commandEffect op s.block)) := by
  simp only [List.mem_cons, List.not_mem_nil, or_false] at hi
  rcases hi with rfl | rfl | rfl | rfl | rfl | rfl <;> exact ⟨_, rfl, fun _ => rfl⟩

/-! ### How a command can end -/

/-- A kind and a stage that STATUS and ERR_STAGE hold after a failure (R24, R26). -/
abbrev IsFailure (k : Kind) (st : Stage) : Prop :=
  (code k, stageCode st) ∈ legalOutcomes ∧ code k ≠ 0x00 ∧ code k ≠ 0x01 ∧ stageCode st ≠ 0x00

theorem IsFailure.legal {k : Kind} {st : Stage} : IsFailure k st → (code k, stageCode st) ∈ legalOutcomes :=
  fun ⟨h, _, _, _⟩ => h

theorem IsFailure.ne_none {k : Kind} {st : Stage} : IsFailure k st → code k ≠ 0x00 := fun ⟨_, h, _, _⟩ => h

theorem IsFailure.ne_ok {k : Kind} {st : Stage} : IsFailure k st → code k ≠ 0x01 := fun ⟨_, _, h, _⟩ => h

theorem IsFailure.stage_ne_none {k : Kind} {st : Stage} : IsFailure k st → stageCode st ≠ 0x00 :=
  fun ⟨_, _, _, h⟩ => h

theorem isFailure_of_mem {l : List (Kind × Stage)} {k : Kind} {st : Stage} (h : (k, st) ∈ l)
    (hl : ∀ p ∈ l, IsFailure p.1 p.2) : IsFailure k st := hl _ h

/-- How DECRYPT and UNPAD can end: with OUT_LEN cleared, or with an output that fits in OBUF (R130, R170, R241). -/
inductive OutputEnd (b : Block) : Block → Prop where
  | failed {k : Kind} {st : Stage} (info : Half) : IsFailure k st → OutputEnd b (raise failOutput k st info b)
  | wrote {out : ByteString} : out.length ≤ 256 → OutputEnd b (succeed (writeOutput out b))

/-- How PARSE and DECODE can end: with REC cleared, or with a body latched (R190, R210, R241). -/
inductive RecordEnd (b : Block) : Block → Prop where
  | failed {k : Kind} {st : Stage} (info : Half) : IsFailure k st → RecordEnd b (raise failRecord k st info b)
  | latched (body : ByteString) : RecordEnd b (succeed (writeRecord body b))

/-- How the command of a byte can end: what it leaves in the block. -/
inductive CommandEnd (op : Byte) (b : Block) : Block → Prop where
  | nop : op = 0x00 → CommandEnd op b b
  /-- CONFIG under the lock, or an illegal command (R111, R112). -/
  | turnedAway {k : Kind} {st : Stage} (info : Half) :
      op ≠ 0x00 → IsFailure k st → CommandEnd op b (raise failNothing k st info b)
  /-- CONFIG with a key length of 16 (R111). -/
  | configured : op = 0x01 → b.cfgLock = false → b.keyLen = 16 →
      CommandEnd op b (succeed { b with cfgLock := true, keyOk := true })
  /-- CONFIG with another key length (R111). -/
  | badKey : op = 0x01 → b.cfgLock = false → b.keyLen ≠ 16 →
      CommandEnd op b (raise failNothing .invalidKeySize .config (zext16 b.keyLen)
        { b with cfgLock := true, keyOk := false })
  | output {c : Block} : op = 0x02 ∨ op = 0x03 → OutputEnd b c → CommandEnd op b c
  | record {c : Block} : op = 0x04 ∨ op = 0x05 → RecordEnd b c → CommandEnd op b c

theorem decryptCommand_end (b : Block) : OutputEnd b (decryptCommand b) := by
  rcases decryptCommand_cases b with ⟨k, st, info, hk, he⟩ | ⟨hmod, hle, _, _, he⟩
  · rw [he]
    exact .failed info (isFailure_of_mem hk (by decide))
  · rw [he]
    refine .wrote ?_
    rwa [ecbDecrypt_length _ _ (by simpa using hmod), operand_length]

theorem unpadCommand_end (b : Block) : OutputEnd b (unpadCommand b) := by
  rcases unpadCommand_cases b with ⟨k, st, info, hk, he⟩ | ⟨hle, he⟩
  · rw [he]
    exact .failed info (isFailure_of_mem hk (by decide))
  · rw [he]
    refine .wrote ?_
    simp only [unpadded, List.length_take, operand_length]
    omega

theorem parseCommand_end (b : Block) : RecordEnd b (parseCommand b) := by
  rcases parseCommand_cases b with ⟨_, he⟩ | ⟨_, he⟩ <;> rw [he]
  · exact .latched _
  · exact .failed _ (by decide)

theorem decodeCommand_end (b : Block) : RecordEnd b (decodeCommand b) := by
  rcases decodeCommand_cases b with ⟨k, st, info, hk, he⟩ | ⟨_, _, _, _, _, _, he⟩
  · rw [he]
    exact .failed info (isFailure_of_mem hk (by decide))
  · rw [he]
    exact .latched _

theorem configure_end (b : Block) : CommandEnd 0x01 b (configure b) := by
  have hkey : b.keyLen = 16 ↔ b.keyLen.toNat = 16 := BitVec.toNat_eq
  rcases configure_cases b with ⟨_, he⟩ | ⟨hl, hk, he⟩ | ⟨hl, hk, he⟩ <;> rw [he]
  · exact .turnedAway _ (by decide) (by decide)
  · exact .configured rfl hl (hkey.mpr hk)
  · exact .badKey rfl hl (mt hkey.mp hk)

/-- Every command ends in one of these ways (R113). -/
theorem commandEffect_end (op : Byte) (b : Block) : CommandEnd op b (commandEffect op b) := by
  rcases commandByte_cases op with rfl | rfl | rfl | rfl | rfl | rfl | h
  · exact .nop rfl
  · exact configure_end b
  · exact .output (.inl rfl) (decryptCommand_end b)
  · exact .output (.inr rfl) (unpadCommand_end b)
  · exact .record (.inl rfl) (parseCommand_end b)
  · exact .record (.inr rfl) (decodeCommand_end b)
  · rw [commandEffect_of_gt h]
    exact .turnedAway _ (by bv_omega) (by decide)

/-- Every command but NOP writes a STATUS other than NONE (R41). -/
theorem CommandEnd.status_ne_zero {op : Byte} {b c : Block} (h : CommandEnd op b c) (hop : op ≠ 0x00) :
    c.status ≠ 0x00 := by
  cases h with
  | nop h0 => exact absurd h0 hop
  | turnedAway _ _ hf => exact hf.ne_none
  | configured _ _ _ => exact (by decide : code .ok ≠ 0x00)
  | badKey _ _ _ => exact (by decide : code .invalidKeySize ≠ 0x00)
  | output _ ho =>
    cases ho with
    | failed _ hf => exact hf.ne_none
    | wrote _ => exact (by decide : code .ok ≠ 0x00)
  | record _ hr =>
    cases hr with
    | failed _ hf => exact hf.ne_none
    | latched _ => exact (by decide : code .ok ≠ 0x00)

/-- No command writes a register or buffer of the host's (R21). -/
theorem CommandEnd.sameOperands {op : Byte} {b c : Block} (h : CommandEnd op b c) : sameOperands b c := by
  cases h with
  | output _ ho => cases ho <;> exact ⟨rfl, rfl, rfl, rfl, rfl, rfl⟩
  | record _ hr => cases hr <;> exact ⟨rfl, rfl, rfl, rfl, rfl, rfl⟩
  | nop _ | turnedAway _ _ _ | configured _ _ _ | badKey _ _ _ => exact ⟨rfl, rfl, rfl, rfl, rfl, rfl⟩

/-! ### What a host write can leave -/

/-- A host write elsewhere than to CMD writes an operand, or a configuration register while it is unlocked, or nothing
(R67). -/
theorem hostWrite_cases (a : Addr) (v : Byte) (b : Block) :
    (∃ n w m, (b.ibuf.wf = true → m.wf = true) ∧
      hostWrite a v b = { b with inLen := n, advVid := w, ibuf := m }) ∨
    (b.cfgLock = false ∧ ∃ e l k, hostWrite a v b = { b with expVid := e, keyLen := l, key := k }) := by
  unfold hostWrite
  cases locate a with
  | ibuf i => exact .inl ⟨_, _, _, fun h => wf_write h i.isLt v, rfl⟩
  | expVidHi | expVidLo | keyLen | key =>
    simp only [writeLocation, unlessLocked]
    split
    · exact .inl ⟨_, _, _, id, rfl⟩
    · exact .inr ⟨by simp_all, _, _, _, rfl⟩
  | _ => exact .inl ⟨_, _, _, id, rfl⟩

end Sys2Proof.Machine
end

section
/-! PROOFS. What one step can do to the block, and the statements about the registers that follow from it
(spec/10_state.md R24 to R41). -/

namespace Sys2Proof.Machine

open Sys2Proof.Claims

/-! ### What a command and a host write keep -/

theorem CommandEnd.eq_of_nop {b c : Block} (h : CommandEnd 0x00 b c) : c = b := by
  cases h with
  | nop _ => rfl
  | turnedAway _ hop _ => exact absurd rfl hop
  | configured hop _ _ | badKey hop _ _ => exact absurd hop (by decide)
  | output hop _ | record hop _ => exact absurd hop (by decide)

/-- Only PARSE and DECODE write REC and REC_VALID (R34). -/
theorem CommandEnd.record_writer {op : Byte} {b c : Block} (h : CommandEnd op b c) :
    (op = 0x04 ∨ op = 0x05) ∨ (c.record = b.record ∧ c.recValid = b.recValid) := by
  cases h with
  | record hop _ => exact .inl hop
  | output _ ho => cases ho <;> exact .inr ⟨rfl, rfl⟩
  | nop _ | turnedAway _ _ _ | configured _ _ _ | badKey _ _ _ => exact .inr ⟨rfl, rfl⟩

/-- Only DECRYPT and UNPAD write OBUF and OUT_LEN (R28, R36). -/
theorem CommandEnd.output_writer {op : Byte} {b c : Block} (h : CommandEnd op b c) :
    (op = 0x02 ∨ op = 0x03) ∨ (c.obuf = b.obuf ∧ c.outLen = b.outLen) := by
  cases h with
  | output hop _ => exact .inl hop
  | record _ hr => cases hr <;> exact .inr ⟨rfl, rfl⟩
  | nop _ | turnedAway _ _ _ | configured _ _ _ | badKey _ _ _ => exact .inr ⟨rfl, rfl⟩

/-- Under the lock no command writes the configuration (R38). -/
theorem CommandEnd.sameConfiguration {op : Byte} {b c : Block} (h : CommandEnd op b c) (hl : b.cfgLock = true) :
    sameConfiguration b c := by
  cases h with
  | configured _ hl' _ | badKey _ hl' _ => exact absurd hl' (by simp [hl])
  | output _ ho => cases ho <;> exact ⟨rfl, rfl, rfl, rfl, rfl⟩
  | record _ hr => cases hr <;> exact ⟨rfl, rfl, rfl, rfl, rfl⟩
  | nop _ | turnedAway _ _ _ => exact ⟨rfl, rfl, rfl, rfl, rfl⟩

/-- The registers that say how a command ended and what it gave are the same. -/
abbrev sameResults (b c : Block) : Prop :=
  c.status = b.status ∧ c.errStage = b.errStage ∧ c.errInfo = b.errInfo ∧ c.record = b.record ∧
    c.recValid = b.recValid ∧ c.obuf = b.obuf ∧ c.outLen = b.outLen

/-- The result registers are read-only to the host (R67). -/
theorem hostWrite_sameResults (a : Addr) (v : Byte) (b : Block) : sameResults b (hostWrite a v b) := by
  rcases hostWrite_cases a v b with ⟨_, _, _, _, he⟩ | ⟨_, _, _, _, he⟩ <;> rw [he] <;>
    exact ⟨rfl, rfl, rfl, rfl, rfl, rfl, rfl⟩

/-- Under the lock the host writes no configuration register (R38). -/
theorem hostWrite_sameConfiguration (a : Addr) (v : Byte) {b : Block} (hl : b.cfgLock = true) :
    sameConfiguration b (hostWrite a v b) := by
  rcases hostWrite_cases a v b with ⟨_, _, _, _, he⟩ | ⟨hl', _⟩
  · rw [he]
    exact ⟨rfl, rfl, rfl, rfl, rfl⟩
  · exact absurd hl' (by simp [hl])

/-! ### What one step can do to the block -/

/-- What a step can leave in the block, by the event it takes (R8). -/
inductive StepEnd (s : State) : Block → Prop where
  /-- An idle step, or a host read (R65, R256). -/
  | kept : (∀ op, ¬takesCommand s op) → StepEnd s s.block
  | reset : takesReset s → StepEnd s Block.reset
  | hostWrote (a : Addr) (v : Byte) : (∀ op, ¬takesCommand s op) → StepEnd s (hostWrite a v s.block)
  | commanded {op : Byte} {c : Block} : takesCommand s op → CommandEnd op s.block c → StepEnd s c

/-- A step takes one command at most. -/
theorem takesCommand_unique {s : State} {op op' : Byte} (h : takesCommand s op) (h' : takesCommand s op') :
    op = op' := by
  have := h.symm.trans h'
  simpa using this

theorem step_end {s t : State} (h : step s = .next t) : StepEnd s t.block := by
  rcases hp : s.pending with _ | ⟨e, rest⟩
  · rw [step_of_pending_nil hp] at h
    cases h
    exact .kept (by simp [takesCommand, hp])
  · rw [step_eq_of_pending_cons hp] at h
    cases h
    match e with
    | .reset => exact .reset (by simp [takesReset, hp])
    | .tx (.read a) => exact .kept (by simp [takesCommand, hp])
    | .tx (.write a v) =>
      by_cases ha : a = cmdAddr
      · subst ha
        exact .commanded (by simp [takesCommand, hp]) (commandEffect_end v s.block)
      · simp only [eventEffect_write_of_ne ha]
        refine .hostWrote a v fun op htakes => ha ?_
        simp only [takesCommand, hp, List.head?_cons, Option.some.injEq, HostEvent.tx.injEq,
          HostTx.write.injEq] at htakes
        exact htakes.1

/-! ### The invariant -/

theorem inv_reset : Block.reset.Inv := by decide

theorem outcomeLegal_succeed (b : Block) : (succeed b).outcomeLegal :=
  ⟨(by decide : (code .ok, stageCode .none) ∈ legalOutcomes), fun _ => rfl⟩

theorem noneLegal_succeed (b : Block) : (succeed b).noneLegal := fun h => absurd h (by decide : code .ok ≠ 0x00)

theorem outcomeLegal_raise {k : Kind} {st : Stage} (hf : IsFailure k st) (fail : Block → Block) (info : Half)
    (b : Block) : (raise fail k st info b).outcomeLegal :=
  ⟨hf.legal, fun h => absurd h hf.stage_ne_none⟩

theorem noneLegal_raise {k : Kind} {st : Stage} (hf : IsFailure k st) (fail : Block → Block) (info : Half)
    (b : Block) : (raise fail k st info b).noneLegal := fun h => absurd h hf.ne_none

theorem OutputEnd.inv {b c : Block} (h : OutputEnd b c) (hb : b.Inv) : c.Inv := by
  obtain ⟨_, hconfig, hrecord, _, ⟨hibuf, hobuf⟩, _⟩ := hb
  cases h with
  | failed info hf =>
    exact ⟨outcomeLegal_raise hf _ _ _, hconfig, hrecord, Nat.zero_le _, ⟨hibuf, hobuf⟩,
      noneLegal_raise hf _ _ _⟩
  | @wrote out hle =>
    have hlen : (half out.length).toNat ≤ 256 := by
      rw [half_toNat]
      omega
    exact ⟨outcomeLegal_succeed _, hconfig, hrecord, hlen, ⟨hibuf, wf_memWrite hobuf (by omega)⟩,
      noneLegal_succeed _⟩

theorem RecordEnd.inv {b c : Block} (h : RecordEnd b c) (hb : b.Inv) : c.Inv := by
  obtain ⟨_, hconfig, _, hlength, hbuffers, _⟩ := hb
  cases h with
  | failed info hf =>
    exact ⟨outcomeLegal_raise hf _ _ _, hconfig, fun _ => zeroRecord_eq, hlength, hbuffers,
      noneLegal_raise hf _ _ _⟩
  | latched body =>
    exact ⟨outcomeLegal_succeed _, hconfig, fun hv => Bool.noConfusion hv, hlength, hbuffers, noneLegal_succeed _⟩

/-- Every command keeps the invariant: it ends in a legal outcome, CONFIG alone writes the configuration, and each
result is written in its legal form. -/
theorem CommandEnd.inv {op : Byte} {b c : Block} (h : CommandEnd op b c) (hb : b.Inv) : c.Inv := by
  cases h with
  | nop _ => exact hb
  | output _ ho => exact ho.inv hb
  | record _ hr => exact hr.inv hb
  | turnedAway info _ hf =>
    obtain ⟨_, hconfig, hrecord, hlength, hbuffers, _⟩ := hb
    exact ⟨outcomeLegal_raise hf _ _ _, hconfig, hrecord, hlength, hbuffers, noneLegal_raise hf _ _ _⟩
  | configured _ _ hkey =>
    obtain ⟨_, _, hrecord, hlength, hbuffers, _⟩ := hb
    exact ⟨outcomeLegal_succeed _, ⟨fun _ => rfl, fun _ => iff_of_true rfl hkey⟩, hrecord, hlength, hbuffers,
      noneLegal_succeed _⟩
  | badKey _ _ hkey =>
    obtain ⟨_, _, hrecord, hlength, hbuffers, _⟩ := hb
    exact ⟨outcomeLegal_raise (by decide) _ _ _, ⟨fun _ => rfl, fun _ => iff_of_false Bool.noConfusion hkey⟩,
      hrecord, hlength, hbuffers, noneLegal_raise (by decide) _ _ _⟩

/-- A host write keeps the invariant: KEY_LEN, which the invariant reads under the lock, is written only without it. -/
theorem hostWrite_inv (a : Addr) (v : Byte) {b : Block} (hb : b.Inv) : (hostWrite a v b).Inv := by
  obtain ⟨houtcome, ⟨hok, hlocked⟩, hrecord, hlength, ⟨hibuf, hobuf⟩, hnone⟩ := hb
  rcases hostWrite_cases a v b with ⟨_, _, _, hm, he⟩ | ⟨hl, _, _, _, he⟩ <;> rw [he]
  · exact ⟨houtcome, ⟨hok, hlocked⟩, hrecord, hlength, ⟨hm hibuf, hobuf⟩, hnone⟩
  · exact ⟨houtcome, ⟨hok, fun hl' => absurd (hl.symm.trans hl') (by decide)⟩, hrecord, hlength, ⟨hibuf, hobuf⟩,
      hnone⟩

/-- A step without a command and without the reset writes no result register. -/
theorem StepEnd.results_writer {s : State} {c : Block} (h : StepEnd s c) :
    sameResults s.block c ∨ takesReset s ∨ ∃ op, takesCommand s op ∧ CommandEnd op s.block c := by
  cases h with
  | kept _ => exact .inl ⟨rfl, rfl, rfl, rfl, rfl, rfl, rfl⟩
  | reset htakes => exact .inr (.inl htakes)
  | hostWrote a v _ => exact .inl (hostWrite_sameResults a v s.block)
  | commanded htakes hc => exact .inr (.inr ⟨_, htakes, hc⟩)

theorem StepEnd.inv {s : State} {c : Block} (h : StepEnd s c) (hs : s.Inv) : c.Inv := by
  cases h with
  | kept _ => exact hs
  | reset _ => exact inv_reset
  | hostWrote a v _ => exact hostWrite_inv a v hs
  | commanded _ hc => exact hc.inv hs

/-! ### The statements -/

/-- Settles O11: whatever event the step takes keeps each part of the invariant. -/
theorem invariantKeptByEveryStep : Obligations.InvariantKeptByEveryStep :=
  fun _ _ hs h => (step_end h).inv hs

/-- Settles O10, by evaluating the reset block. -/
theorem invariantAtReset : Obligations.InvariantAtReset := inv_reset

/-- Settles O7: the reset event puts in the block of R40, whose buffers list no cell. -/
theorem resetValues : Obligations.ResetValues := by
  refine ⟨fun s rest hp => ?_, rfl, fun i => ⟨read_nil i, read_nil i⟩⟩
  rw [step_eq_of_pending_cons hp]
  simp [eventEffect, eventReads, State.reset]

/-- What stands between EXP_VID and REC is a configuration register, or 0x00F, which is reserved (R37, R38). -/
theorem locate_configuration {a : Addr} (hlo : 0x00C ≤ a) (hhi : a < 0x020) :
    locate a = .expVidHi ∨ locate a = .expVidLo ∨ locate a = .keyLen ∨ locate a = .reserved ∨
      ∃ i, locate a = .key i := by
  revert a
  decide +kernel

/-- Under the lock a host write to a configuration register is ignored (R38). -/
theorem hostWrite_configuration_of_locked {a : Addr} (hlo : 0x00C ≤ a) (hhi : a < 0x020) (v : Byte) {b : Block}
    (hl : b.cfgLock = true) : hostWrite a v b = b := by
  have hignored (written : Block) : unlessLocked b written = b := if_pos hl
  rcases locate_configuration hlo hhi with he | he | he | he | ⟨i, he⟩ <;>
    simp only [hostWrite, he, writeLocation, hignored]

/-- Settles O12: under the lock no host write and no command reaches the configuration, and a reset gives the block
of R40. -/
theorem configurationLock : Obligations.ConfigurationLock := by
  refine ⟨fun s a v hl hlo hhi => ?_, fun s t hl hreset h => ?_, fun s hreset => ?_⟩
  · have ha : a ≠ 0x000 := by bv_omega
    rw [exec_hostWr_of_ne ha, hostWrite_configuration_of_locked hlo hhi v hl, withBlock_self]
  · have hend := step_end h
    generalize t.block = c at hend ⊢
    cases hend with
    | kept _ => exact ⟨rfl, rfl, rfl, rfl, rfl⟩
    | reset htakes => exact absurd htakes hreset
    | hostWrote a v _ => exact hostWrite_sameConfiguration a v hl
    | commanded _ hc => exact hc.sameConfiguration hl
  · obtain ⟨rest, hp⟩ := List.head?_eq_some_iff.mp hreset
    exact ⟨_, step_eq_of_pending_cons hp, rfl⟩

/-- Settles O13: a step that is no reset and takes no command that writes a result register leaves it as it is. -/
theorem whoWritesTheResults : Obligations.WhoWritesTheResults := by
  intro s t h
  rcases (step_end h).results_writer with hsame | hreset | ⟨op, htakes, hc⟩
  · obtain ⟨hstatus, hstage, hinfo, hrecord, hvalid, hobuf, hlen⟩ := hsame
    simp [hstatus, hstage, hinfo, hrecord, hvalid, hobuf, hlen]
  · exact ⟨fun _ => .inl hreset, fun _ => .inl hreset, fun _ => .inl hreset⟩
  · refine ⟨fun hne => .inr ⟨op, ?_, htakes⟩, fun hne => .inr ?_, fun hne => .inr ?_⟩
    · rintro rfl
      simp [hc.eq_of_nop] at hne
    · rcases hc.record_writer with (rfl | rfl) | ⟨hrecord, hvalid⟩
      · exact .inl htakes
      · exact .inr htakes
      · simp [hrecord, hvalid] at hne
    · rcases hc.output_writer with (rfl | rfl) | ⟨hobuf, hlen⟩
      · exact .inl htakes
      · exact .inr htakes
      · simp [hobuf, hlen] at hne

/-- Settles O14: however a command ends, it keeps the operands. -/
theorem commandsKeepTheirOperands : Obligations.CommandsKeepTheirOperands := by
  intro i hi s
  obtain ⟨op, _, hexec⟩ := exec_command hi
  exact ⟨_, hexec s, (commandEffect_end op s.block).sameOperands, rfl, rfl⟩

/-- Settles O15: no command but NOP ends with STATUS = NONE, and no host write writes STATUS. -/
theorem noneOnlyBeforeTheFirstCommand : Obligations.NoneOnlyBeforeTheFirstCommand := by
  refine ⟨fun i hi s => ?_, fun s op hop => ?_, fun s t h hstatus => ?_⟩
  · obtain ⟨op, henc, hexec⟩ := exec_command (List.mem_cons_of_mem _ hi)
    have hne : ∀ i ∈ [Instr.config, .decrypt, .unpad, .parse, .decode], encode i ≠ .write cmdAddr 0x00 := by decide
    have hop : op ≠ 0x00 := by
      rintro rfl
      exact hne i hi henc
    exact ⟨_, hexec s, (commandEffect_end op s.block).status_ne_zero hop⟩
  · refine ⟨_, (exec_hostWr_cmd op s).trans (performCommand_eq op s), ?_⟩
    exact (commandEffect_end op s.block).status_ne_zero (by bv_omega)
  · have hend := step_end h
    generalize t.block = c at hend hstatus
    cases hend with
    | kept hnone => exact .inr ⟨hstatus, fun op htakes => absurd htakes (hnone op)⟩
    | reset htakes => exact .inl htakes
    | hostWrote a v hnone =>
      exact .inr ⟨(hostWrite_sameResults a v s.block).1 ▸ hstatus, fun op htakes => absurd htakes (hnone op)⟩
    | @commanded op _ htakes hc =>
      by_cases hop : op = 0x00
      · subst hop
        exact .inr ⟨hc.eq_of_nop ▸ hstatus, fun op' htakes' => takesCommand_unique htakes' htakes⟩
      · exact absurd hstatus (hc.status_ne_zero hop)

/-- What PARSE and DECODE leave of the record, in STATUS's terms (R34, R190, R214). -/
theorem RecordEnd.record_iff_ok {b c : Block} (h : RecordEnd b c) :
    (c.status = 0x01 ∧ c.recValid = true) ∨
      (c.status ≠ 0x01 ∧ c.recValid = false ∧ c.record = Vector.replicate 8 0x00) := by
  cases h with
  | failed _ hf => exact .inr ⟨hf.ne_ok, rfl, zeroRecord_eq⟩
  | latched _ => exact .inl ⟨rfl, rfl⟩

/-- Settles O49: PARSE and DECODE end with REC cleared and a failure's STATUS, or with a body latched. -/
theorem noRecordButOnSuccess : Obligations.NoRecordButOnSuccess := by
  rintro i (rfl | rfl) s
  · exact ⟨_, exec_parse s, (parseCommand_end s.block).record_iff_ok⟩
  · exact ⟨_, exec_decode s, (decodeCommand_end s.block).record_iff_ok⟩

/-- What DECRYPT and UNPAD leave of the output, in STATUS's terms (R28, R36, R241). -/
theorem OutputEnd.output_only_ok {b c : Block} (h : OutputEnd b c) :
    c.outLen.toNat ≤ 256 ∧ (∀ j, c.outLen.toNat ≤ j → c.obuf.read j = b.obuf.read j) ∧
      (c.status ≠ 0x01 → c.outLen = 0x0000 ∧ c.obuf = b.obuf) := by
  cases h with
  | failed _ _ => exact ⟨Nat.zero_le _, fun _ _ => rfl, fun _ => ⟨rfl, rfl⟩⟩
  | @wrote out hle =>
    have hlen : (succeed (writeOutput out b)).outLen.toNat = out.length := by
      rw [succeed_outLen, writeOutput_outLen, half_toNat]
      omega
    refine ⟨by omega, fun j hj => ?_, fun hne => absurd rfl hne⟩
    rw [succeed_obuf, writeOutput_obuf, read_memWrite, if_neg (by omega)]

/-- Settles O50: DECRYPT and UNPAD end with OUT_LEN cleared, or with OBUF written below OUT_LEN. -/
theorem noOutputButOnSuccess : Obligations.NoOutputButOnSuccess := by
  rintro i (rfl | rfl) s
  · exact ⟨_, exec_decrypt s, (decryptCommand_end s.block).output_only_ok⟩
  · exact ⟨_, exec_unpad s, (unpadCommand_end s.block).output_only_ok⟩

end Sys2Proof.Machine
end

section
/-! PROOFS. What the block's behaviour depends on: two blocks that differ in KEY and in bytes of IBUF that no command
reads (spec/10_state.md R33, R35). -/

namespace Sys2Proof.Machine

open Sys2Proof.Claims

/-! ### A block with other inputs -/

/-- The block with another KEY and another IBUF. -/
abbrev Block.withInputs (b : Block) (k : Vector Byte 16) (m : Memory) : Block := { b with key := k, ibuf := m }

/-- An IBUF that holds the operand bytes that a command may read, and any other bytes beyond (R35). -/
def sameOperandBytes (b : Block) (m : Memory) : Prop := ∀ j < min b.inLen.toNat 256, m.read j = b.ibuf.read j

/-- What the block decrypts with is the same: KEY, or that it has no usable key (R33). -/
def sameUsableKey (b : Block) (k : Vector Byte 16) : Prop := k = b.key ∨ ¬(b.cfgLock = true ∧ b.keyOk = true)

theorem sameUsableKey.key_eq {b : Block} {k : Vector Byte 16} (h : sameUsableKey b k) (hl : b.cfgLock = true)
    (hok : b.keyOk = true) : k = b.key := h.resolve_right (not_not_intro ⟨hl, hok⟩)

/-- Every read within the operand and the buffer sees the same bytes. -/
theorem memRead_of_sameOperandBytes {b : Block} {m : Memory} (h : sameOperandBytes b m) {i n : Nat}
    (hlen : i + n ≤ b.inLen.toNat) (hle : i + n ≤ 256) : memRead m i n = memRead b.ibuf i n :=
  memRead_congr fun j _ => h (i + j) (by omega)

theorem operand_withInputs {b : Block} {m : Memory} (h : sameOperandBytes b m) (k : Vector Byte 16) {n : Nat}
    (hlen : n ≤ operandLength b) (hle : n ≤ 256) : operand (b.withInputs k m) n = operand b n :=
  memRead_of_sameOperandBytes h (by rwa [Nat.zero_add]) (by rwa [Nat.zero_add])

theorem extractCiphertext_of_sameOperandBytes {b : Block} {m : Memory} (h : sameOperandBytes b m) :
    extractCiphertext m (operandLength b) = extractCiphertext b.ibuf (operandLength b) := by
  unfold extractCiphertext
  split_ifs with h16 h18
  · rw [memRead_of_sameOperandBytes h h16.ge (by decide)]
  · rw [memRead_of_sameOperandBytes h h18.ge (by decide)]
  · rfl

/-- Another KEY that is the block's own changes IBUF alone. -/
theorem withInputs_of_key_eq {b : Block} {k : Vector Byte 16} (h : b.key = k) (m : Memory) :
    b.withInputs k m = { b with ibuf := m } := by
  subst h
  rfl

/-- Another IBUF that is the block's own changes KEY alone. -/
theorem withInputs_of_ibuf_eq {b : Block} {m : Memory} (h : b.ibuf = m) (k : Vector Byte 16) :
    b.withInputs k m = { b with key := k } := by
  subst h
  rfl

/-! ### Commands commute with other inputs -/

theorem configure_withInputs (b : Block) (k : Vector Byte 16) (m : Memory) :
    configure (b.withInputs k m) = (configure b).withInputs k m := by
  unfold configure
  split_ifs <;> rfl

theorem decryptCommand_withInputs {b : Block} {k : Vector Byte 16} {m : Memory} (hm : sameOperandBytes b m)
    (hk : sameUsableKey b k) : decryptCommand (b.withInputs k m) = (decryptCommand b).withInputs k m := by
  have hlen : operandLength (b.withInputs k m) = operandLength b := rfl
  simp only [decryptCommand, hlen]
  split_ifs with hl hok hn hbig
  · rfl
  · rfl
  · rfl
  · rfl
  · have hkey : k = b.key := hk.key_eq (by simpa using hl) (by simpa using hok)
    rw [operand_withInputs hm k le_rfl (by simpa using hbig)]
    subst hkey
    rfl

theorem unpadCommand_withInputs {b : Block} {m : Memory} (hm : sameOperandBytes b m) (k : Vector Byte 16) :
    unpadCommand (b.withInputs k m) = (unpadCommand b).withInputs k m := by
  have hlen : operandLength (b.withInputs k m) = operandLength b := rfl
  simp only [unpadCommand, hlen]
  by_cases hbig : Config.bufferBytes < operandLength b
  · simp only [hbig, if_true]
    split_ifs <;> rfl
  · rw [operand_withInputs hm k le_rfl (by simpa using hbig)]
    split_ifs <;> rfl

theorem parseCommand_withInputs {b : Block} {m : Memory} (hm : sameOperandBytes b m) (k : Vector Byte 16) :
    parseCommand (b.withInputs k m) = (parseCommand b).withInputs k m := by
  have hlen : operandLength (b.withInputs k m) = operandLength b := rfl
  simp only [parseCommand, hlen]
  split_ifs with h8
  · rw [operand_withInputs hm k h8.ge (by decide)]
    rfl
  · rfl

theorem decodePlaintext_withInputs (p : ByteString) (b : Block) (k : Vector Byte 16) (m : Memory) :
    decodePlaintext p (b.withInputs k m) = (decodePlaintext p b).withInputs k m := by
  unfold decodePlaintext
  split_ifs <;> rfl

theorem decodeCommand_withInputs {b : Block} {k : Vector Byte 16} {m : Memory} (hm : sameOperandBytes b m)
    (hk : sameUsableKey b k) : decodeCommand (b.withInputs k m) = (decodeCommand b).withInputs k m := by
  have hlen : operandLength (b.withInputs k m) = operandLength b := rfl
  simp only [decodeCommand, hlen, extractCiphertext_of_sameOperandBytes hm]
  split_ifs with hl hvid hok
  · rfl
  · rfl
  · split <;> rfl
  · have hkey : k = b.key := hk.key_eq (by simpa using hl) (by simpa using hok)
    subst hkey
    split
    · rfl
    · exact decodePlaintext_withInputs _ b _ m

/-- No command reads KEY but DECRYPT and DECODE under a usable key, and none reads IBUF beyond its operand (R33,
R35). -/
theorem commandEffect_withInputs {op : Byte} {b : Block} {k : Vector Byte 16} {m : Memory}
    (hm : sameOperandBytes b m) (hk : sameUsableKey b k ∨ (op ≠ 0x02 ∧ op ≠ 0x05)) :
    commandEffect op (b.withInputs k m) = (commandEffect op b).withInputs k m := by
  rcases commandByte_cases op with rfl | rfl | rfl | rfl | rfl | rfl | h
  · rfl
  · exact configure_withInputs b k m
  · exact decryptCommand_withInputs hm (hk.resolve_right (by simp))
  · exact unpadCommand_withInputs hm k
  · exact parseCommand_withInputs hm k
  · exact decodeCommand_withInputs hm (hk.resolve_right (by simp))
  · rw [commandEffect_of_gt h, commandEffect_of_gt h]
    rfl

/-! ### The statements -/

/-- Settles O51: the next states differ in IBUF as before, KEY being the same in both. -/
theorem commandsReadOnlyTheirOperand : Obligations.CommandsReadOnlyTheirOperand := by
  intro i hi s m hm
  obtain ⟨op, _, hexec⟩ := exec_command hi
  have hkey : (commandEffect op s.block).key = s.block.key := by
    obtain ⟨_, _, _, _, hkey, _⟩ := (commandEffect_end op s.block).sameOperands
    exact hkey
  have heffect : commandEffect op { s.block with ibuf := m } = { commandEffect op s.block with ibuf := m } :=
    (commandEffect_withInputs hm (.inl (.inl rfl))).trans (withInputs_of_key_eq hkey m)
  refine ⟨_, hexec s, (hexec _).trans ?_⟩
  rw [withBlock_block, heffect]
  rfl

/-- Settles O22: KEY's own addresses read 0x00 (R33), and no other location of the map is KEY. -/
theorem keyNeverRead : Obligations.KeyNeverRead := by
  intro b k a
  unfold hostRead
  cases locate a <;> rfl

theorem eventReads_withKey (e : HostEvent) (b : Block) (k : Vector Byte 16) :
    eventReads e { b with key := k } = eventReads e b := by
  match e with
  | .tx (.read a) => exact congrArg (fun v => [v]) (keyNeverRead b k a)
  | .reset | .tx (.write _ _) => rfl

theorem hostWrite_withKey (a : Addr) (v : Byte) (b : Block) (k : Vector Byte 16) :
    ∃ k', hostWrite a v { b with key := k } = { hostWrite a v b with key := k' } := by
  unfold hostWrite
  cases locate a with
  | expVidHi | expVidLo | keyLen | key =>
    simp only [writeLocation, unlessLocked]
    split <;> exact ⟨_, rfl⟩
  | _ => exact ⟨k, rfl⟩

/-- No event reads KEY but a DECRYPT or a DECODE under a usable key; a host write may write it (R33). -/
theorem eventEffect_withKey {e : HostEvent} {b : Block} {k : Vector Byte 16}
    (h : sameUsableKey b k ∨ ∀ op, e = .tx (.write cmdAddr op) → op ≠ 0x02 ∧ op ≠ 0x05) :
    ∃ k', eventEffect e { b with key := k } = { eventEffect e b with key := k' } := by
  match e with
  | .reset => exact ⟨_, rfl⟩
  | .tx (.read _) => exact ⟨k, rfl⟩
  | .tx (.write a v) =>
    by_cases ha : a = cmdAddr
    · subst ha
      obtain ⟨_, _, _, _, _, hibuf⟩ := (commandEffect_end v b).sameOperands
      refine ⟨k, ?_⟩
      calc commandEffect v { b with key := k }
        _ = commandEffect v (b.withInputs k b.ibuf) := rfl
        _ = (commandEffect v b).withInputs k b.ibuf :=
            commandEffect_withInputs (fun _ _ => rfl) (h.imp_right fun hop => hop v rfl)
        _ = { commandEffect v b with key := k } := withInputs_of_ibuf_eq hibuf k
    · rw [eventEffect_write_of_ne ha, eventEffect_write_of_ne ha]
      exact hostWrite_withKey a v b k

/-- Settles O21: the step's event does to the other machine what it does to this one, KEY apart. -/
theorem keyUnusedWithoutDecryption : Obligations.KeyUnusedWithoutDecryption := by
  intro s k h
  rcases hp : s.pending with _ | ⟨e, rest⟩
  · exact ⟨s, k, step_of_pending_nil hp, step_of_pending_nil hp⟩
  · obtain ⟨k', heffect⟩ :
        ∃ k', eventEffect e { s.block with key := k } = { eventEffect e s.block with key := k' } := by
      refine eventEffect_withKey (h.imp .inr fun ⟨h2, h5⟩ op he => ?_)
      have htakes : takesCommand s op := by rw [takesCommand, hp, he, List.head?_cons]
      exact ⟨fun hop => h2 (hop ▸ htakes), fun hop => h5 (hop ▸ htakes)⟩
    refine ⟨_, k', step_eq_of_pending_cons hp, ?_⟩
    rw [step_eq_of_pending_cons (rest := rest) (by exact hp), withBlock_block, heffect, eventReads_withKey]
    rfl

end Sys2Proof.Machine
end

section
/-! PROOFS. The host's port: what a step takes and returns, the byte a host read returns and what a host write stores
at every address, and the bus window (spec/20_memory.md R60 to R70). -/

namespace Sys2Proof.Machine

/-! ### Every step goes on -/

/-- An event returns at most one byte to the host (R66). -/
theorem eventReads_cases (e : HostEvent) (b : Block) : eventReads e b = [] ∨ ∃ v, eventReads e b = [v] := by
  match e with
  | .tx (.read a) => exact .inr ⟨hostRead a b, rfl⟩
  | .tx (.write _ _) | .reset => exact .inl rfl

/-- Settles O9: an idle step keeps everything, and an event always runs to a next state. -/
theorem stepAlwaysGoesOn : Obligations.StepAlwaysGoesOn := by
  intro s
  rcases hp : s.pending with _ | ⟨e, rest⟩
  · exact ⟨s, step_of_pending_nil hp, hp, .inl rfl⟩
  · refine ⟨_, step_eq_of_pending_cons hp, rfl, ?_⟩
    rcases eventReads_cases e s.block with hnone | ⟨v, hone⟩
    · exact .inl (by simp only [hnone, List.append_nil])
    · exact .inr ⟨v, by simp only [hone]⟩

/-! ### The two bytes of a 16-bit register -/

/-- Writing the byte at the lower address sets the high half (R61, R63). -/
theorem setHi_eq (v : Half) (b : Byte) : setHi v b = BitVec.ofNat 16 (b.toNat * 256 + v.toNat % 256) := by
  rw [setHi, be16, loByte_toNat]

/-- Writing the byte at the higher address sets the low half (R61, R63). -/
theorem setLo_eq (v : Half) (b : Byte) : setLo v b = BitVec.ofNat 16 (v.toNat / 256 * 256 + b.toNat) := by
  rw [setLo, be16, hiByte_toNat]

@[simp] theorem hiByte_setHi (v : Half) (b : Byte) : hiByte (setHi v b) = b := hiByte_be16 _ _
@[simp] theorem loByte_setHi (v : Half) (b : Byte) : loByte (setHi v b) = loByte v := loByte_be16 _ _
@[simp] theorem hiByte_setLo (v : Half) (b : Byte) : hiByte (setLo v b) = hiByte v := hiByte_be16 _ _
@[simp] theorem loByte_setLo (v : Half) (b : Byte) : loByte (setLo v b) = b := loByte_be16 _ _

/-- Both bytes written, nothing of the old value is left. -/
@[simp] theorem setLo_setHi (v : Half) (h l : Byte) : setLo (setHi v h) l = be16 h l := by
  rw [setLo, hiByte_setHi]

@[simp] theorem setHi_setHi (v : Half) (b c : Byte) : setHi (setHi v b) c = setHi v c := by
  rw [setHi, loByte_setHi, setHi]

@[simp] theorem setLo_setLo (v : Half) (b c : Byte) : setLo (setLo v b) c = setLo v c := by
  rw [setLo, hiByte_setLo, setLo]

/-- The STATE byte as a number (R25). -/
theorem stateByte_toNat (b : Block) :
    (stateByte b).toNat = 4 * b.recValid.toNat + 2 * b.keyOk.toNat + b.cfgLock.toNat := by
  unfold stateByte
  generalize b.recValid = r, b.keyOk = k, b.cfgLock = l
  revert r k l
  decide

/-! ### Which location an address is -/

theorem addr_eq_ofNat {a : Addr} {n : Nat} (h : a.toNat = n) : a = BitVec.ofNat 10 n := by
  rw [← h, BitVec.ofNat_toNat, BitVec.setWidth_eq]

theorem locate_key_of_toNat {a : Addr} {i : Fin 16} (h : a.toNat = 0x010 + i) : locate a = .key i :=
  addr_eq_ofNat h ▸ locate_key i

theorem locate_record_of_toNat {a : Addr} {i : Fin 8} (h : a.toNat = 0x020 + i) : locate a = .record i :=
  addr_eq_ofNat h ▸ locate_record i

theorem locate_ibuf_of_toNat {a : Addr} {i : Fin 256} (h : a.toNat = 0x100 + i) : locate a = .ibuf i :=
  addr_eq_ofNat h ▸ locate_ibuf i

theorem locate_obuf_of_toNat {a : Addr} {i : Fin 256} (h : a.toNat = 0x200 + i) : locate a = .obuf i :=
  addr_eq_ofNat h ▸ locate_obuf i

/-- The addresses 0x010 to 0x01F are the bytes of KEY (R33). -/
theorem locate_key_of_range {a : Addr} (hlo : 0x010 ≤ a) (hhi : a < 0x020) : ∃ i, locate a = .key i := by
  have hlo' : 0x010 ≤ a.toNat := hlo
  have hhi' : a.toNat < 0x020 := hhi
  exact ⟨⟨a.toNat - 0x010, by omega⟩, locate_key_of_toNat (by simp only; omega)⟩

/-- The address of a location that has just one (R68). `address_locate` ties it to the register map. -/
def Location.address : Location → Option Nat
  | .cmd => some 0x000
  | .status => some 0x001
  | .state => some 0x002
  | .errStage => some 0x003
  | .errInfoHi => some 0x004
  | .errInfoLo => some 0x005
  | .outLenHi => some 0x006
  | .outLenLo => some 0x007
  | .inLenHi => some 0x008
  | .inLenLo => some 0x009
  | .advVidHi => some 0x00A
  | .advVidLo => some 0x00B
  | .expVidHi => some 0x00C
  | .expVidLo => some 0x00D
  | .keyLen => some 0x00E
  | .key i => some (0x010 + i)
  | .record i => some (0x020 + i)
  | .ibuf i => some (0x100 + i)
  | .obuf i => some (0x200 + i)
  | .reserved => none

theorem address_locate {a : Addr} : locate a ≠ .reserved → (locate a).address = some a.toNat := by
  revert a
  decide +kernel

/-- Two addresses are the same location only where both are reserved. -/
theorem locate_inj {a a' : Addr} (h : locate a' = locate a) (hr : locate a ≠ .reserved) : a' = a := by
  have haddr : some a'.toNat = some a.toNat := by
    rw [← address_locate hr, ← address_locate (h ▸ hr), h]
  exact BitVec.eq_of_toNat_eq (Option.some.inj haddr)

/-! ### Host reads -/

theorem hostRead_of_locate {a : Addr} {l : Location} (h : locate a = l) (b : Block) :
    hostRead a b = readLocation l b := by
  rw [hostRead, h]

/-- Settles O16: each clause is the register map's entry for its address, its 16-bit halves as arithmetic. -/
theorem hostReadReturnsItsByte : Obligations.HostReadReturnsItsByte := by
  intro s a
  refine ⟨hostRead a s.block, exec_hostRd a s, ?cmd, ?status, ?state, ?errStage, ?errInfoHi, ?errInfoLo, ?outLenHi,
    ?outLenLo, ?inLenHi, ?inLenLo, ?advVidHi, ?advVidLo, ?expVidHi, ?expVidLo, ?keyLen, ?key, ?record, ?ibuf, ?obuf,
    ?reserved⟩
  case cmd | status | errStage | keyLen =>
    rintro rfl
    rfl
  case state =>
    rintro rfl
    exact stateByte_toNat s.block
  case errInfoHi | outLenHi | inLenHi | advVidHi | expVidHi =>
    rintro rfl
    exact hiByte_toNat _
  case errInfoLo | outLenLo | inLenLo | advVidLo | expVidLo =>
    rintro rfl
    exact loByte_toNat _
  case key =>
    rintro ⟨hlo, hhi⟩
    obtain ⟨i, hi⟩ := locate_key_of_range hlo hhi
    exact hostRead_of_locate hi _
  case record => exact fun i h => hostRead_of_locate (locate_record_of_toNat h) _
  case ibuf => exact fun i h => hostRead_of_locate (locate_ibuf_of_toNat h) _
  case obuf => exact fun i h => hostRead_of_locate (locate_obuf_of_toNat h) _
  case reserved => exact fun h => hostRead_of_locate (locate_reserved a h) _

/-! ### Host writes -/

theorem unlessLocked_of_unlocked {b : Block} (h : b.cfgLock = false) (written : Block) :
    unlessLocked b written = written := if_neg (by simp [h])

/-- A host write stores its byte at its location (R67). -/
theorem exec_hostWr_of_locate {a : Addr} {l : Location} (h : locate a = l) (hl : l ≠ .cmd) (v : Byte) (s : State) :
    exec (.hostWr a v) s = .next (s.withBlock (writeLocation l v s.block)) := by
  have ha : a ≠ 0x000 := fun ha => hl (h ▸ locate_eq_cmd.mpr ha)
  rw [exec_hostWr_of_ne ha, hostWrite, h]

/-- A host write to a configuration register that is not locked stores its byte there (R38, R67). -/
theorem exec_hostWr_of_unlocked {a : Addr} {l : Location} (h : locate a = l) (hl : l ≠ .cmd) {v : Byte} {s : State}
    {written : Block} (hw : writeLocation l v s.block = unlessLocked s.block written)
    (hlock : s.block.cfgLock = false) : exec (.hostWr a v) s = .next (s.withBlock written) := by
  rw [exec_hostWr_of_locate h hl, hw, unlessLocked_of_unlocked hlock]

/-- The locations at which a host write is ignored, locked or not (R37, R67). `writeLocation_of_ignoresWrites` ties it
to the model. -/
def Location.ignoresWrites : Location → Bool
  | .status | .state | .errStage | .errInfoHi | .errInfoLo | .outLenHi | .outLenLo | .record _ | .obuf _
  | .reserved => true
  | _ => false

theorem writeLocation_of_ignoresWrites {l : Location} (h : l.ignoresWrites = true) (v : Byte) (b : Block) :
    writeLocation l v b = b := by
  cases l with
  | status | state | errStage | errInfoHi | errInfoLo | outLenHi | outLenLo | record | obuf | reserved => rfl
  | _ => exact Bool.noConfusion h

/-- The read-only and the reserved addresses (R66, R67). -/
theorem locate_ignoresWrites {a : Addr} :
    (0x001 ≤ a ∧ a < 0x008) ∨ a = 0x00F ∨ (0x020 ≤ a ∧ a < 0x100) ∨ 0x200 ≤ a →
      (locate a).ignoresWrites = true := by
  revert a
  decide +kernel

/-- Settles O17: each clause is the register map's entry for its address, and a configuration register's is ignored
under the lock. -/
theorem hostWriteStoresItsByte : Obligations.HostWriteStoresItsByte := by
  intro s a v
  refine ⟨?cmd, ?inLenHi, ?inLenLo, ?advVidHi, ?advVidLo, ?expVidHi, ?expVidLo, ?keyLen, ?key, ?ibuf, ?locked,
    ?ignored⟩
  case cmd =>
    rintro rfl
    exact exec_hostWr_cmd v s
  case inLenHi | advVidHi =>
    rintro rfl
    rw [← setHi_eq]
    rfl
  case inLenLo | advVidLo =>
    rintro rfl
    rw [← setLo_eq]
    rfl
  case expVidHi =>
    rintro rfl hlock
    rw [← setHi_eq]
    exact exec_hostWr_of_unlocked (l := .expVidHi) rfl (by decide) rfl hlock
  case expVidLo =>
    rintro rfl hlock
    rw [← setLo_eq]
    exact exec_hostWr_of_unlocked (l := .expVidLo) rfl (by decide) rfl hlock
  case keyLen =>
    rintro rfl hlock
    exact exec_hostWr_of_unlocked (l := .keyLen) rfl (by decide) rfl hlock
  case key => exact fun i h hlock => exec_hostWr_of_unlocked (locate_key_of_toNat h) (by simp) rfl hlock
  case ibuf =>
    refine fun i h => ⟨s.block.ibuf.write i v, exec_hostWr_of_locate (locate_ibuf_of_toNat h) (by simp) v s, ?_, ?_⟩
    · rw [read_write, if_pos rfl]
    · intro j hj
      rw [read_write, if_neg hj]
  case locked =>
    rintro ⟨hlo, hhi, _, hlock⟩
    have ha : a ≠ 0x000 := by bv_omega
    rw [exec_hostWr_of_ne ha, hostWrite_configuration_of_locked hlo hhi v hlock, withBlock_self]
  case ignored =>
    intro h
    have hign := locate_ignoresWrites h
    have hcmd : locate a ≠ .cmd := fun hc => Bool.noConfusion (hc ▸ hign : Location.cmd.ignoresWrites = true)
    rw [exec_hostWr_of_locate rfl hcmd, writeLocation_of_ignoresWrites hign, withBlock_self]

/-- Settles O20: the second write keeps the byte of the first, so that neither half of the old value is left. -/
theorem sixteenBitRegistersBigEndian : Obligations.SixteenBitRegistersBigEndian := by
  intro s h l
  refine ⟨?inLen, ?advVid, fun hlock => ?expVid⟩
  case inLen =>
    refine ⟨_, _, exec_hostWr_of_locate (l := .inLenHi) rfl (by decide) h s,
      exec_hostWr_of_locate (l := .inLenLo) rfl (by decide) l _, ?_⟩
    simp only [writeLocation, withBlock_block, setLo_setHi, be16]
  case advVid =>
    refine ⟨_, _, exec_hostWr_of_locate (l := .advVidHi) rfl (by decide) h s,
      exec_hostWr_of_locate (l := .advVidLo) rfl (by decide) l _, ?_⟩
    simp only [writeLocation, withBlock_block, setLo_setHi, be16]
  case expVid =>
    refine ⟨_, _, exec_hostWr_of_unlocked (l := .expVidHi) rfl (by decide) rfl hlock,
      exec_hostWr_of_unlocked (l := .expVidLo) rfl (by decide) rfl hlock, ?_⟩
    simp only [withBlock_block, setLo_setHi, be16]

/-! ### A read after a write -/

/-- The locations that a host write sets and a host read returns, given the configuration lock: KEY is not among them,
because it reads 0x00 (R33, R63, R67). `readLocation_writeLocation_same` ties it to the model. -/
def Location.readsBack (locked : Bool) : Location → Bool
  | .inLenHi | .inLenLo | .advVidHi | .advVidLo | .ibuf _ => true
  | .expVidHi | .expVidLo | .keyLen => !locked
  | _ => false

theorem locate_readsBack {a : Addr} {locked : Bool} :
    (0x008 ≤ a ∧ a < 0x00C) ∨ (0x100 ≤ a ∧ a < 0x200) ∨ (0x00C ≤ a ∧ a < 0x00F ∧ locked = false) →
      (locate a).readsBack locked = true := by
  revert a locked
  decide +kernel

/-- The byte written is read back (R65). -/
theorem readLocation_writeLocation_same {l : Location} {b : Block} (h : l.readsBack b.cfgLock = true) (v : Byte) :
    readLocation l (writeLocation l v b) = v := by
  cases l with
  | inLenHi | advVidHi => exact hiByte_setHi _ _
  | inLenLo | advVidLo => exact loByte_setLo _ _
  | ibuf i => exact (read_write _ _ _ _).trans (if_pos rfl)
  | expVidHi | expVidLo | keyLen =>
    have hlock : b.cfgLock = false := (Bool.not_eq_true' _).mp h
    simp [writeLocation, unlessLocked_of_unlocked hlock, readLocation]
  | _ => exact Bool.noConfusion h

/-- A location reads the same after a write that the lock may have stopped, if it does after the write. -/
theorem readLocation_unlessLocked {l : Location} {b written : Block}
    (h : readLocation l written = readLocation l b) : readLocation l (unlessLocked b written) = readLocation l b := by
  unfold unlessLocked
  split
  · rfl
  · exact h

/-- A host write changes no other location's byte: the other half of a 16-bit register keeps its value (R63), and the
other bytes of IBUF theirs. -/
theorem readLocation_writeLocation_of_ne {l l' : Location} (h : l' ≠ l) (v : Byte) (b : Block) :
    readLocation l' (writeLocation l v b) = readLocation l' b := by
  cases l with
  | inLenHi | inLenLo | advVidHi | advVidLo =>
    cases l' <;> simp_all [writeLocation, readLocation, stateByte]
  | expVidHi | expVidLo | keyLen =>
    refine readLocation_unlessLocked ?_
    cases l' <;> simp_all [readLocation, stateByte]
  | key i =>
    refine readLocation_unlessLocked ?_
    cases l' <;> rfl
  | ibuf i =>
    cases l' with
    | ibuf j =>
      have hj : j.val ≠ i.val := fun hij => h (congrArg Location.ibuf (Fin.ext hij))
      exact (read_write _ _ _ _).trans (if_neg hj)
    | _ => rfl
  | _ => rfl

/-! ### The same write again -/

/-- A cell inserted where none has its index is filtered out again. -/
theorem filter_insert_ne {m : Memory} {i : Nat} (h : ∀ c ∈ m, c.1 ≠ i) (v : Byte) :
    (Memory.insert m i v).filter (fun c => c.1 != i) = m := by
  have hkept {n : Memory} (hn : ∀ c ∈ n, c.1 ≠ i) : n.filter (fun c => c.1 != i) = n :=
    List.filter_eq_self.mpr fun c hc => bne_iff_ne.mpr (hn c hc)
  induction m with
  | nil => simp [Memory.insert]
  | cons c m ih =>
    obtain ⟨hc, hm⟩ := List.forall_mem_cons.mp h
    unfold Memory.insert
    split
    · rw [List.filter_cons_of_neg (by simp), hkept h]
    · rw [List.filter_cons_of_pos (by simpa using hc), ih hm]

/-- A byte written twice is the same data as written once, in every buffer, canonical or not. -/
@[simp] theorem write_write (m : Memory) (i : Nat) (v w : Byte) : (m.write i v).write i w = m.write i w := by
  have hrest : (m.write i v).filter (fun c => c.1 != i) = m.filter (fun c => c.1 != i) := by
    unfold Memory.write
    dsimp only
    split
    · rw [List.filter_filter]
      simp
    · exact filter_insert_ne (by simp) v
  unfold Memory.write at hrest ⊢
  dsimp only at hrest ⊢
  rw [hrest]

/-- The same host write again changes nothing, at any location (R67). -/
theorem writeLocation_writeLocation (l : Location) (v : Byte) (b : Block) :
    writeLocation l v (writeLocation l v b) = writeLocation l v b := by
  cases l with
  | inLenHi | inLenLo | advVidHi | advVidLo | ibuf => simp [writeLocation]
  | expVidHi | expVidLo | keyLen | key =>
    by_cases hlock : b.cfgLock = true <;> simp [writeLocation, unlessLocked, hlock]
  | _ => rfl

/-- Settles O19: the register map gives each such address a location of its own, which alone the write changes. -/
theorem readAfterHostWrite : Obligations.ReadAfterHostWrite := by
  intro s a v h
  have hback := locate_readsBack h
  have hreserved : locate a ≠ .reserved := fun hr =>
    Bool.noConfusion (hr ▸ hback : Location.reserved.readsBack s.block.cfgLock = true)
  have ha : a ≠ 0x000 := by bv_omega
  refine ⟨_, exec_hostWr_of_ne ha v s, readLocation_writeLocation_same hback v, fun a' hne => ?_, ?_⟩
  · exact readLocation_writeLocation_of_ne (fun hl => hne (locate_inj hl hreserved)) v s.block
  · rw [exec_hostWr_of_ne ha, withBlock_withBlock, withBlock_block, hostWrite, hostWrite, writeLocation_writeLocation]

/-! ### The bus window -/

/-- Settles O52: within the window the offset fits in 10 bits, so that it is the address itself. -/
theorem busWindow : Obligations.BusWindow := by
  refine ⟨fun a => ?_, fun h hout => if_neg (by omega)⟩
  have ha := a.isLt
  rw [blockAddress, if_pos (by omega), Nat.add_sub_cancel_left, BitVec.ofNat_toNat, BitVec.setWidth_eq]

end Sys2Proof.Machine
end

section
/-! PROOFS. The encoder and the decoder, by transaction and by word (spec/30_encoding.md R80 to R83). -/

namespace Sys2Proof.Machine

/-! ### Transactions -/

/-- A well-formed instruction is what its transaction is decoded to: the premise keeps a host write off CMD. -/
theorem decode_encode {i : Instr} (h : i.wellFormed = true) : decode (encode i) = .ok i := by
  cases i with
  | hostWr a v => exact decode_write_of_ne (bne_iff_ne.mp h) v
  | _ => rfl

/-- A transaction is a well-formed instruction's, unless it writes an illegal command byte (R81, R82). -/
theorem encodes_or_illegal (t : HostTx) :
    (∃ i : Instr, i.wellFormed = true ∧ encode i = t) ∨ ∃ op : Byte, 0x05 < op ∧ t = .write cmdAddr op := by
  cases t with
  | read a => exact .inl ⟨.hostRd a, rfl, rfl⟩
  | write a v =>
    by_cases ha : a = cmdAddr
    · subst ha
      rcases commandByte_cases v with rfl | rfl | rfl | rfl | rfl | rfl | hv
      · exact .inl ⟨.nop, rfl, rfl⟩
      · exact .inl ⟨.config, rfl, rfl⟩
      · exact .inl ⟨.decrypt, rfl, rfl⟩
      · exact .inl ⟨.unpad, rfl, rfl⟩
      · exact .inl ⟨.parse, rfl, rfl⟩
      · exact .inl ⟨.decode, rfl, rfl⟩
      · exact .inr ⟨v, hv, rfl⟩
    · exact .inl ⟨.hostWr a v, bne_iff_ne.mpr ha, rfl⟩

/-! ### Words -/

/-- The word of a command is its byte. -/
theorem txOfWord_command (v : Byte) : txOfWord 8 v.toNat = some (.write cmdAddr v) := by
  rw [txOfWord, if_pos (by decide), if_pos v.isLt, BitVec.ofNat_toNat, BitVec.setWidth_eq]

/-- The word of a host read is its address, all higher bits zero (log 5). -/
theorem txOfWord_read (a : Addr) : txOfWord 16 a.toNat = some (.read a) := by
  have ha := a.isLt
  have haddr : BitVec.ofNat 10 a.toNat = a := by rw [BitVec.ofNat_toNat, BitVec.setWidth_eq]
  have hdata : a.toNat / 2 ^ 16 = 0 := by omega
  have hdir : ¬ a.toNat / 2 ^ 10 % 2 = 1 := by omega
  have hunused : ¬ (a.toNat / 2 ^ 11 % 2 ^ 5 ≠ 0 ∨ 2 ^ 24 ≤ a.toNat) := by omega
  simp only [txOfWord, haddr, hdata, if_neg hdir, if_neg hunused]
  rfl

/-- The word of a host write has its address below the direction bit 10 and its data from bit 16 on (log 5). -/
theorem txOfWord_write (a : Addr) (v : Byte) :
    txOfWord 24 (v.toNat * 2 ^ 16 + 2 ^ 10 + a.toNat) = some (.write a v) := by
  have ha := a.isLt
  have hv := v.isLt
  generalize hw : v.toNat * 2 ^ 16 + 2 ^ 10 + a.toNat = w
  have haddr : BitVec.ofNat 10 w = a := BitVec.eq_of_toNat_eq (by rw [BitVec.toNat_ofNat]; omega)
  have hdata : BitVec.ofNat 8 (w / 2 ^ 16) = v := BitVec.eq_of_toNat_eq (by rw [BitVec.toNat_ofNat]; omega)
  have hdir : w / 2 ^ 10 % 2 = 1 := by omega
  have hunused : ¬ (w / 2 ^ 11 % 2 ^ 5 ≠ 0 ∨ 2 ^ 24 ≤ w) := by omega
  simp only [txOfWord, haddr, hdata, if_pos hdir, if_neg hunused]
  rfl

/-- The three layouts do not overlap: every transaction is read back from its word. -/
theorem txOfWord_wordOfTx (t : HostTx) : txOfWord (wordOfTx t).1 (wordOfTx t).2 = some t := by
  cases t with
  | read a => exact txOfWord_read a
  | write a v =>
    by_cases ha : a = cmdAddr
    · subst ha
      exact txOfWord_command v
    · rw [wordOfTx, if_neg ha]
      exact txOfWord_write a v

theorem decodeTableWord_of_txOfWord {nbits w : Nat} {t : HostTx} {i : Instr} (ht : txOfWord nbits w = some t)
    (hi : decode t = .ok i) : decodeTableWord nbits w = some i := by
  simp only [decodeTableWord, ht, hi]

/-! ### The statements -/

/-- Settles O3: the word of an instruction is read back as its transaction, and its transaction decodes to it. -/
theorem decodeEncodeRoundTrip : Obligations.DecodeEncodeRoundTrip := by
  intro i hwf
  have hdecode := decode_encode hwf
  exact ⟨hdecode, decodeTableWord_of_txOfWord (txOfWord_wordOfTx (encode i)) hdecode⟩

/-- Settles O4: the round trip gives existence, and the decoder's single answer uniqueness. -/
theorem decodeAcceptsOnlyEncodings : Obligations.DecodeAcceptsOnlyEncodings := by
  intro t
  rcases encodes_or_illegal t with ⟨i, hwf, rfl⟩ | ⟨op, hop, rfl⟩
  · have hdecode := decode_encode hwf
    refine .inl ⟨i, ⟨hwf, rfl, hdecode⟩, fun j ⟨_, _, hj⟩ => ?_⟩
    exact Except.ok.inj (hj.symm.trans hdecode)
  · exact .inr ⟨op, hop, rfl, decodeCmd_of_gt hop⟩

/-- Settles O1: the rows of the map, and `decodeCmd_of_gt` for every other byte. -/
theorem opcodeMapTotal : Obligations.OpcodeMapTotal :=
  ⟨rfl, rfl, rfl, rfl, rfl, rfl, fun _ => decodeCmd_of_gt⟩

/-- Settles O2: each sample is the transaction of a well-formed instruction. -/
theorem sampleWordsDecode : Obligations.SampleWordsDecode :=
  ⟨decode_encode (i := .config) rfl, decode_encode (i := .decode) rfl, decode_encode (i := .hostRd 0x001) rfl,
   decode_encode (i := .hostWr 0x100 0x69) rfl⟩

end Sys2Proof.Machine
end

section
/-! PROOFS. The padded-plaintext format, as the checks of `unpad` see it and as bytes appended to a message
(spec/30_encoding.md R88, spec/42_unpad.md R171). -/

namespace Sys2Proof.Machine

/-! ### The checks -/

/-- `unpad` succeeds exactly if none of its three checks fails (R171). -/
theorem unpad_eq_ok_iff {p m : ByteString} : unpad p = .ok m ↔
    isNotBlocks p.length = false ∧ badPadValue p = false ∧ badPadBytes p = false ∧ unpadded p = m := by
  unfold unpad
  split_ifs with hsize hvalue hbytes
  · simp [hsize]
  · simp [hvalue]
  · simp [hbytes]
  · simp [hsize, hvalue, hbytes]

theorem badPadValue_eq_false (p : ByteString) : badPadValue p = false ↔ 1 ≤ padCount p ∧ padCount p ≤ 16 := by
  simp [badPadValue, Nat.one_le_iff_ne_zero]

/-- The padding bytes are right exactly if the string ends in as many bytes as they count (R88). -/
theorem badPadBytes_eq_false {p : ByteString} (h : padCount p ≤ p.length) :
    badPadBytes p = false ↔ p.drop (p.length - padCount p) = bytes (padCount p) (BitVec.ofNat 8 (padCount p)) := by
  have hlength : (p.drop (p.length - padCount p)).length = padCount p := by rw [List.length_drop]; omega
  have hbyte (v : Byte) : v.toNat = padCount p ↔ v = BitVec.ofNat 8 (padCount p) := by
    have hlt : padCount p < 2 ^ 8 := (byteAt p (p.length - 1)).isLt
    rw [← BitVec.toNat_inj, BitVec.toNat_ofNat, Nat.mod_eq_of_lt hlt]
  rw [bytes, List.eq_replicate_iff, badPadBytes, List.any_eq_false]
  simp only [hlength, true_and, bne_iff_ne, ne_eq, not_not, hbyte]

/-! ### The format -/

@[simp] theorem bytes_length (n : Nat) (v : Byte) : (bytes n v).length = n := List.length_replicate

/-- The last padding byte says how many there are (R88). -/
theorem padCount_append_bytes (m : ByteString) {n : Nat} (hpos : 1 ≤ n) (hle : n ≤ 16) :
    padCount (m ++ bytes n (BitVec.ofNat 8 n)) = n := by
  have hlast : byteAt (m ++ bytes n (BitVec.ofNat 8 n)) (m.length + n - 1) = BitVec.ofNat 8 n := by
    rw [byteAt, List.getD_eq_getElem _ _ (by simp; omega), List.getElem_append_right (by omega)]
    exact List.getElem_replicate _
  rw [padCount, List.length_append, bytes_length, hlast, BitVec.toNat_ofNat]
  omega

/-- `unpad` takes 1 to 16 padding bytes off whole blocks (R88, R171). -/
theorem unpad_append_bytes (m : ByteString) {n : Nat} (hpos : 1 ≤ n) (hle : n ≤ 16)
    (hblocks : (m.length + n) % 16 = 0) : unpad (m ++ bytes n (BitVec.ofNat 8 n)) = .ok m := by
  have hcount := padCount_append_bytes m hpos hle
  generalize hp : m ++ bytes n (BitVec.ofNat 8 n) = p at hcount
  have hlength : p.length = m.length + n := by rw [← hp, List.length_append, bytes_length]
  have hmessage : p.length - padCount p = m.length := by omega
  refine unpad_eq_ok_iff.mpr ⟨?size, ?value, ?padding, ?message⟩
  case size => exact (isNotBlocks_eq_false _).mpr (by omega)
  case value => exact (badPadValue_eq_false p).mpr (by omega)
  case padding => rw [badPadBytes_eq_false (by omega), hmessage, hcount, ← hp, List.drop_left]
  case message => rw [unpadded, hmessage, ← hp, List.take_left]

/-- What `unpad` accepts is whole blocks, the message followed by its padding (R88). -/
theorem padded_of_unpad {p m : ByteString} (h : unpad p = .ok m) :
    p.length % 16 = 0 ∧ 1 ≤ padCount p ∧ padCount p ≤ 16 ∧
      p = m ++ bytes (padCount p) (BitVec.ofNat 8 (padCount p)) := by
  obtain ⟨hsize, hvalue, hpadding, rfl⟩ := unpad_eq_ok_iff.mp h
  obtain ⟨hne, hblocks⟩ := (isNotBlocks_eq_false _).mp hsize
  obtain ⟨hpos, hle⟩ := (badPadValue_eq_false p).mp hvalue
  have hdrop := (badPadBytes_eq_false (by omega)).mp hpadding
  exact ⟨hblocks, hpos, hle, by rw [← hdrop, unpadded, List.take_append_drop]⟩

/-- Settles O38, one lemma a direction. -/
theorem unpadAcceptsExactlyPadded : Obligations.UnpadAcceptsExactlyPadded := by
  intro p m
  constructor
  · intro h
    obtain ⟨hblocks, hpos, hle, hp⟩ := padded_of_unpad h
    exact ⟨hblocks, padCount p, hpos, hle, hp⟩
  · rintro ⟨hblocks, n, hpos, hle, rfl⟩
    exact unpad_append_bytes m hpos hle (by simpa using hblocks)

end Sys2Proof.Machine
end

section
/-! PROOFS. The record's fields in the 64-bit big-endian reading of the body (spec/30_encoding.md R89 to R92,
spec/43_parse.md R191 to R195). -/

namespace Sys2Proof.Machine

/-! ### The bytes of the reading -/

theorem be16_eq_append (h l : Byte) : be16 h l = h ++ l := by
  apply BitVec.eq_of_toNat_eq
  rw [be16_toNat, BitVec.toNat_append, ← Nat.shiftLeft_add_eq_or_of_lt l.isLt, Nat.shiftLeft_eq]

/-- Byte `i` of the body stands in bits 63-8i down to 56-8i (R89). -/
theorem be64_extract_byte (s : ByteString) {i : Nat} (hi : i < 8) :
    (be64 s).extractLsb' (56 - 8 * i) 8 = byteAt s i := by
  unfold be64
  interval_cases i <;>
    simp (disch := decide) only [Nat.reduceMul, Nat.reduceSub, BitVec.extractLsb'_append_eq_of_le,
      BitVec.extractLsb'_append_eq_right, BitVec.extractLsb'_eq_self]

/-- Two neighbouring bytes of the body stand in the reading as their big-endian half (R89, R10). -/
theorem be64_extract_half (s : ByteString) {i : Nat} (hi : i < 7) :
    (be64 s).extractLsb' (48 - 8 * i) 16 = be16 (byteAt s i) (byteAt s (i + 1)) := by
  have hlo : 56 - 8 * (i + 1) = 48 - 8 * i := by omega
  have hhi : 56 - 8 * i = 48 - 8 * i + 8 := by omega
  rw [be16_eq_append, ← be64_extract_byte s (by omega : i < 8), ← be64_extract_byte s (by omega : i + 1 < 8), hlo,
    BitVec.extractLsb'_append_extractLsb'_eq_extractLsb' hhi]

/-- The flags byte stands in bits 47:40, its bit `i` in bit 40+i (R90). -/
theorem be64_getLsbD_flags (s : ByteString) {i : Nat} (hi : i < 8) :
    (be64 s).getLsbD (40 + i) = (byteAt s 2).getLsbD i := by
  rw [← be64_extract_byte s (by decide : 2 < 8), BitVec.getLsbD_extractLsb', decide_eq_true hi, Bool.true_and]

/-! ### Signs -/

/-- `sint_16` is the library's two's-complement reading (R10). -/
theorem sint16_eq_toInt (v : Half) : sint16 v = v.toInt := by
  rw [BitVec.toInt_eq_msb_cond, BitVec.msb_eq_getLsbD_last]
  rfl

/-- `sint_8` is the library's two's-complement reading (R10). -/
theorem sint8_eq_toInt (v : Byte) : sint8 v = v.toInt := by
  rw [BitVec.toInt_eq_msb_cond, BitVec.msb_eq_getLsbD_last]
  rfl

/-! ### The statement -/

theorem parse_of_length {b : ByteString} (h : b.length = 8) : parse b = .ok (telemetry b) := if_pos h

/-- Settles O41, field by field: `be64_extract_byte` for the bytes, `be64_extract_half` for the temperatures. -/
theorem recordFieldsAreBitRanges : Obligations.RecordFieldsAreBitRanges := by
  intro b hlength
  have hdevice : (be64 b).extractLsb' 56 8 = byteAt b 0 := be64_extract_byte b (i := 0) (by decide)
  have hversion : (be64 b).extractLsb' 48 8 = byteAt b 1 := be64_extract_byte b (i := 1) (by decide)
  have hflags : (be64 b).extractLsb' 40 8 = byteAt b 2 := be64_extract_byte b (i := 2) (by decide)
  have htmp : (be64 b).extractLsb' 24 16 = be16 (byteAt b 3) (byteAt b 4) := be64_extract_half b (i := 3) (by decide)
  have hcpu : (be64 b).extractLsb' 8 16 = be16 (byteAt b 5) (byteAt b 6) := be64_extract_half b (i := 5) (by decide)
  have hbattery : (be64 b).extractLsb' 0 8 = byteAt b 7 := be64_extract_byte b (i := 7) (by decide)
  have hi2cFail : (be64 b).getLsbD 40 = (byteAt b 2).getLsbD 0 := be64_getLsbD_flags b (i := 0) (by decide)
  have hbatLow : (be64 b).getLsbD 41 = (byteAt b 2).getLsbD 1 := be64_getLsbD_flags b (i := 1) (by decide)
  have htmpFail : (be64 b).getLsbD 42 = (byteAt b 2).getLsbD 2 := be64_getLsbD_flags b (i := 2) (by decide)
  have hdegrees (x : Rat) : x / 100 * 100 = x := div_mul_cancel₀ x (by norm_num)
  rw [hdevice, hversion, hflags, htmp, hcpu, hbattery, hi2cFail, hbatLow, htmpFail, ← sint16_eq_toInt,
    ← sint16_eq_toInt, ← sint8_eq_toInt]
  exact ⟨telemetry b, parse_of_length hlength, rfl, rfl, rfl, rfl, rfl, rfl, rfl, rfl, rfl, hdegrees _, hdegrees _⟩

end Sys2Proof.Machine
end

section
/-! PROOFS. The control commands, and the command that a write to CMD performs (spec/40_control.md R110 to R113). -/

namespace Sys2Proof.Machine

open Sys2Proof.Claims

/-! ### A write to CMD -/

/-- A host write to CMD does in the block what its byte does (R113). -/
theorem exec_hostWr_cmd_eq (op : Byte) (s : State) :
    exec (.hostWr cmdAddr op) s = .next (s.withBlock (commandEffect op s.block)) :=
  (exec_hostWr_cmd op s).trans (performCommand_eq op s)

/-- A write to CMD does the same as a step's event and as a host write, legal byte or not (R113). -/
theorem runEvent_write_cmd_eq_exec (op : Byte) (s : State) :
    runEvent (.tx (.write cmdAddr op)) s = exec (.hostWr cmdAddr op) s :=
  (runEvent_write_cmd op s).trans (exec_hostWr_cmd_eq op s).symm

/-- A step that takes a write to CMD is that host write, the event taken (R70, R113). -/
theorem step_of_pending_cmd {s : State} {op : Byte} {rest : List HostEvent}
    (h : s.pending = .tx (.write cmdAddr op) :: rest) :
    step s = exec (.hostWr cmdAddr op) { s with pending := rest } :=
  (step_of_pending_cons h).trans (runEvent_write_cmd_eq_exec op _)

/-- The host write of a byte of the opcode map is the command that the byte decodes to (R81, R113). -/
theorem exec_hostWr_of_decodeCmd {op : Byte} {i : Instr} (h : decodeCmd op = .ok i) (s : State) :
    exec (.hostWr cmdAddr op) s = exec i s := by
  have hdecode : decode (.write cmdAddr op) = .ok i := h
  rw [← runEvent_write_cmd_eq_exec, runEvent_tx_of_decode_ok hdecode]

/-- The host write of a byte outside the opcode map is the illegal command (R82, R113). -/
theorem exec_hostWr_of_gt {op : Byte} (h : 0x05 < op) (s : State) :
    exec (.hostWr cmdAddr op) s = execIllegal op s := by
  rw [exec_hostWr_cmd_eq, commandEffect_of_gt h, execIllegal]

/-- Settles O18: the decoder's rows give the six commands, and both ways to CMD perform the same command. -/
theorem commandDispatch : Obligations.CommandDispatch := by
  refine ⟨fun s op rest hp => step_of_pending_cmd hp, fun s => ?_⟩
  obtain ⟨hnop, hconfig, hdecrypt, hunpad, hparse, hdecode, _⟩ := opcodeMapTotal
  exact ⟨exec_hostWr_of_decodeCmd hnop s, exec_hostWr_of_decodeCmd hconfig s, exec_hostWr_of_decodeCmd hdecrypt s,
    exec_hostWr_of_decodeCmd hunpad s, exec_hostWr_of_decodeCmd hparse s, exec_hostWr_of_decodeCmd hdecode s,
    fun _ hop => exec_hostWr_of_gt hop s⟩

/-! ### How the control commands end -/

/-- `zext_16` of a byte, by its number (R10). -/
theorem zext16_eq_ofNat (b : Byte) : zext16 b = BitVec.ofNat 16 b.toNat := (BitVec.ofNat_toNat 16 b).symm

/-- A failure that clears nothing writes the three outcome registers alone (R241). -/
theorem raise_failNothing_eq_ended (k : Kind) (st : Stage) (info : Half) (b : Block) :
    raise failNothing k st info b = ended b (code k) (stageCode st) info := rfl

theorem illegal_eq_ended (op : Byte) (b : Block) :
    illegal op b = ended b 0x20 0x07 (BitVec.ofNat 16 op.toNat) := by
  rw [illegal, raise_failNothing_eq_ended, zext16_eq_ofNat, code, stageCode]

theorem execIllegal_eq_ended (op : Byte) (s : State) :
    execIllegal op s = .next (s.withBlock (ended s.block 0x20 0x07 (BitVec.ofNat 16 op.toNat))) := by
  rw [execIllegal, illegal_eq_ended]

/-- Under the lock CONFIG is turned away (R111). -/
theorem configure_of_locked {b : Block} (hl : b.cfgLock = true) : configure b = ended b 0x22 0x07 0x0000 := if_pos hl

/-- CONFIG with another key length locks the configuration all the same (R111). -/
theorem configure_of_badKey {b : Block} (hl : b.cfgLock = false) (hk : b.keyLen.toNat ≠ 16) :
    configure b =
      ended { b with cfgLock := true, keyOk := false } 0x11 0x06 (BitVec.ofNat 16 b.keyLen.toNat) := by
  rw [configure, if_neg (by simp [hl]), if_neg hk, raise_failNothing_eq_ended, zext16_eq_ofNat, code, stageCode]

/-- CONFIG with a key length of 16 locks the configuration with a usable key (R111). -/
theorem configure_of_goodKey {b : Block} (hl : b.cfgLock = false) (hk : b.keyLen.toNat = 16) :
    configure b = ended { b with cfgLock := true, keyOk := true } 0x01 0x00 0x0000 := by
  rw [configure, if_neg (by simp [hl]), if_pos hk]
  rfl

/-! ### The statements -/

/-- Settles O6: a step that takes the byte is its host write, which is the illegal command. -/
theorem illegalCommandOutcome : Obligations.IllegalCommandOutcome := by
  intro s op hop
  have hwrite (t : State) : exec (.hostWr 0x000 op) t =
      .next (t.withBlock (ended t.block 0x20 0x07 (BitVec.ofNat 16 op.toNat))) :=
    (exec_hostWr_of_gt hop t).trans (execIllegal_eq_ended op t)
  exact ⟨fun rest hp => (step_of_pending_cmd hp).trans (hwrite _), hwrite s⟩

/-- Settles O23: NOP's arm answers the state it is given. -/
theorem nopChangesNothing : Obligations.NopChangesNothing := exec_nop

/-- Settles O24: `configure`'s equation in each of its three branches. -/
theorem configFollowsItsRule : Obligations.ConfigFollowsItsRule := by
  refine fun s => ⟨fun hl => ?locked, fun hl hk => ?badKey, fun hl hk => ?goodKey⟩
  case locked => rw [exec_config, configure_of_locked hl]
  case badKey => rw [exec_config, configure_of_badKey hl hk]
  case goodKey => rw [exec_config, configure_of_goodKey hl hk]

end Sys2Proof.Machine
end

section
/-! PROOFS. Arithmetic in GF(2^8): multiplication is linear over exclusive-or in each argument, so its laws need only be
checked on the powers of x (spec/41_aes_decrypt.md R136). -/

namespace Sys2Proof.Machine

/-! ### Linearity over exclusive-or -/

/-- A map of bytes that distributes over the field's addition. -/
def XorLinear (f : Byte → Byte) : Prop := ∀ a b, f (a ^^^ b) = f a ^^^ f b

theorem XorLinear.map_zero {f : Byte → Byte} (hf : XorLinear f) : f 0x00 = 0x00 := by
  simpa using hf 0x00 0x00

theorem xtime_xorLinear : XorLinear xtime := by
  intro a b
  simp only [xtime, BitVec.shiftLeft_xor_distrib, BitVec.getLsbD_xor]
  have hcarry (p q : Bool) :
      (if p ^^ q then (0x1B : Byte) else 0x00) = (if p then 0x1B else 0x00) ^^^ if q then 0x1B else 0x00 := by
    revert p q
    decide
  rw [hcarry]
  ac_rfl

theorem xtimePow_xorLinear (i : Nat) : XorLinear (xtimePow i) := by
  intro a b
  induction i with
  | zero => rfl
  | succ i ih => rw [xtimePow, ih, xtime_xorLinear, xtimePow, xtimePow]

theorem mulTerm_xor_left (a b c : Byte) (i : Nat) : mulTerm (a ^^^ b) c i = mulTerm a c i ^^^ mulTerm b c i := by
  unfold mulTerm
  split
  · exact xtimePow_xorLinear i a b
  · rfl

theorem mulTerm_xor_right (a b c : Byte) (i : Nat) : mulTerm a (b ^^^ c) i = mulTerm a b i ^^^ mulTerm a c i := by
  unfold mulTerm
  cases hb : b.getLsbD i <;> cases hc : c.getLsbD i <;> simp [hb, hc]

theorem mul_xor_left (a b c : Byte) : mul (a ^^^ b) c = mul a c ^^^ mul b c := by
  simp only [mul, mulTerm_xor_left]
  ac_rfl

theorem mul_xor_right (a b c : Byte) : mul a (b ^^^ c) = mul a b ^^^ mul a c := by
  simp only [mul, mulTerm_xor_right]
  ac_rfl

theorem XorLinear.map_mulTerm {f : Byte → Byte} (hf : XorLinear f) (a b : Byte) (i : Nat) :
    f (mulTerm a b i) = if b.getLsbD i then f (xtimePow i a) else 0x00 := by
  unfold mulTerm
  split
  · rfl
  · exact hf.map_zero

/-- A linear map of a product is the sum of what it gives for the product's terms. -/
theorem XorLinear.map_mul {f : Byte → Byte} (hf : XorLinear f) (a b : Byte) :
    f (mul a b) = f (mulTerm a b 0) ^^^ f (mulTerm a b 1) ^^^ f (mulTerm a b 2) ^^^ f (mulTerm a b 3) ^^^
      f (mulTerm a b 4) ^^^ f (mulTerm a b 5) ^^^ f (mulTerm a b 6) ^^^ f (mulTerm a b 7) := by
  simp only [mul, hf _ _]

/-- Every byte is the sum of the powers of x at its bits. -/
theorem one_mul_byte (b : Byte) : mul 0x01 b = b := by
  revert b
  decide +kernel

/-- Linear maps that agree on the powers of x are equal. -/
theorem XorLinear.ext {f g : Byte → Byte} (hf : XorLinear f) (hg : XorLinear g)
    (h : ∀ i < 8, f (xtimePow i 0x01) = g (xtimePow i 0x01)) (b : Byte) : f b = g b := by
  have hterm (i : Nat) (hi : i < 8) : f (mulTerm 0x01 b i) = g (mulTerm 0x01 b i) := by
    rw [hf.map_mulTerm, hg.map_mulTerm, h i hi]
  rw [← one_mul_byte b, hf.map_mul, hg.map_mul, hterm 0 (by decide), hterm 1 (by decide), hterm 2 (by decide),
    hterm 3 (by decide), hterm 4 (by decide), hterm 5 (by decide), hterm 6 (by decide), hterm 7 (by decide)]

/-! ### The laws of multiplication -/

theorem mul_left_xorLinear (c : Byte) : XorLinear (fun a => mul a c) := fun a b => mul_xor_left a b c

theorem mul_right_xorLinear (a : Byte) : XorLinear (mul a) := mul_xor_right a

/-- Commutativity, by linearity in both arguments, from the products of powers of x. -/
theorem mul_comm_byte (a b : Byte) : mul a b = mul b a := by
  have hpowers : ∀ i < 8, ∀ j < 8,
      mul (xtimePow j 0x01) (xtimePow i 0x01) = mul (xtimePow i 0x01) (xtimePow j 0x01) := by decide +kernel
  refine (mul_right_xorLinear a).ext (mul_left_xorLinear a) (fun i hi => ?_) b
  exact (mul_left_xorLinear (xtimePow i 0x01)).ext (mul_right_xorLinear (xtimePow i 0x01)) (hpowers i hi) a

theorem mul_one_byte (a : Byte) : mul a 0x01 = a := by rw [mul_comm_byte, one_mul_byte]

theorem mul_zero_byte (a : Byte) : mul a 0x00 = 0x00 := (mul_right_xorLinear a).map_zero

theorem zero_mul_byte (a : Byte) : mul 0x00 a = 0x00 := (mul_left_xorLinear a).map_zero

theorem xtimePow_xtime (i : Nat) (a : Byte) : xtimePow i (xtime a) = xtime (xtimePow i a) := by
  induction i with
  | zero => rfl
  | succ i ih => rw [xtimePow, ih, xtimePow]

/-- Multiplication by x may be done before or after another. -/
theorem mul_xtime (a b : Byte) : mul a (xtime b) = xtime (mul a b) := by
  have hterm (i : Nat) : mulTerm (xtime b) a i = xtime (mulTerm b a i) := by
    rw [xtime_xorLinear.map_mulTerm, mulTerm, xtimePow_xtime]
  rw [mul_comm_byte, mul_comm_byte a, xtime_xorLinear.map_mul]
  simp only [mul, hterm]

theorem mul_xtimePow (a b : Byte) (i : Nat) : mul a (xtimePow i b) = xtimePow i (mul a b) := by
  induction i with
  | zero => rfl
  | succ i ih => rw [xtimePow, mul_xtime, ih, xtimePow]

/-- Associativity, by linearity in the last argument, from its powers of x. -/
theorem mul_assoc_byte (a b c : Byte) : mul (mul a b) c = mul a (mul b c) := by
  have hlinear : XorLinear (fun c => mul a (mul b c)) := fun c d => by simp only [mul_xor_right]
  refine (mul_right_xorLinear (mul a b)).ext hlinear (fun i _ => ?_) c
  simp only [mul_xtimePow, mul_one_byte]

/-- Settles O33: distribution is linearity, and the other laws follow from it. -/
theorem fieldMultiplication : Obligations.FieldMultiplication :=
  ⟨mul_comm_byte, mul_xor_right, fun a => ⟨mul_one_byte a, mul_zero_byte a⟩, by decide⟩

/-! ### The field inverse -/

/-- Squaring is linear: the two mixed products cancel. -/
theorem square_xor (a b : Byte) : mul (a ^^^ b) (a ^^^ b) = mul a a ^^^ mul b b := by
  rw [mul_xor_left, mul_xor_right, mul_xor_right, mul_comm_byte b a, BitVec.xor_assoc, ← BitVec.xor_assoc (mul a b),
    BitVec.xor_self, BitVec.zero_xor]

theorem squareTimes_xorLinear (k : Nat) : XorLinear (squareTimes k) := by
  intro a b
  induction k generalizing a b with
  | zero => rfl
  | succ k ih => rw [squareTimes, square_xor, ih, squareTimes, squareTimes]

/-- Every byte is its own 256th power: squaring is linear, so the powers of x decide. -/
theorem squareTimes_eight (a : Byte) : squareTimes 8 a = a :=
  (squareTimes_xorLinear 8).ext (g := id) (fun _ _ => rfl) (by decide +kernel) a

theorem squareTimes_mul_self (k : Nat) (a : Byte) : mul (squareTimes k a) (squareTimes k a) = squareTimes (k + 1) a := by
  induction k generalizing a with
  | zero => rfl
  | succ k ih => exact ih (mul a a)

theorem squareTimes_mul_squareTimes_mul (k : Nat) (a b : Byte) :
    mul (squareTimes k a) (mul (squareTimes k a) b) = mul (squareTimes (k + 1) a) b := by
  rw [← mul_assoc_byte, squareTimes_mul_self]

/-- `inv(a)` is the 254th power: two more factors make the 256th. -/
theorem mul_mul_gfInv (a : Byte) : mul a (mul a (gfInv a)) = a :=
  calc mul a (mul a (gfInv a))
    _ = mul (squareTimes 0 a) (mul (squareTimes 0 a) (gfInv a)) := rfl
    _ = squareTimes 8 a := by simp only [gfInv, squareTimes_mul_squareTimes_mul, squareTimes_mul_self]
    _ = a := squareTimes_eight a

/-- A byte's field inverse as the S-box table gives it, through the inverse of the affine map (R137). `gfInv_eq` ties
it to the model. -/
def inverseFromSbox (x : Byte) : Byte :=
  (sbox x).rotateLeft 1 ^^^ (sbox x).rotateLeft 3 ^^^ (sbox x).rotateLeft 6 ^^^ 0x05

theorem mul_inverseFromSbox {x : Byte} : x ≠ 0x00 → mul x (inverseFromSbox x) = 0x01 := by
  revert x
  decide +kernel

theorem affine_inverseFromSbox (x : Byte) : affine (inverseFromSbox x) = sbox x := by
  revert x
  decide +kernel

theorem mul_gfInv {x : Byte} (hx : x ≠ 0x00) : mul x (gfInv x) = 0x01 :=
  calc mul x (gfInv x)
    _ = mul (mul x (inverseFromSbox x)) (mul x (gfInv x)) := by rw [mul_inverseFromSbox hx, one_mul_byte]
    _ = mul (mul x (mul x (gfInv x))) (inverseFromSbox x) := by
        rw [mul_assoc_byte, mul_comm_byte (inverseFromSbox x), mul_assoc_byte, mul_assoc_byte, mul_assoc_byte]
    _ = 0x01 := by rw [mul_mul_gfInv, mul_inverseFromSbox hx]

theorem gfInv_eq (x : Byte) : gfInv x = inverseFromSbox x := by
  by_cases hx : x = 0x00
  · subst hx
    decide +kernel
  · calc gfInv x
      _ = mul (mul x (inverseFromSbox x)) (gfInv x) := by rw [mul_inverseFromSbox hx, one_mul_byte]
      _ = mul (mul x (gfInv x)) (inverseFromSbox x) := by
          rw [mul_assoc_byte, mul_comm_byte (inverseFromSbox x), mul_assoc_byte]
      _ = inverseFromSbox x := by rw [mul_gfInv hx, one_mul_byte]

/-! ### The S-box tables -/

/-- The table's values are those of its algebraic definition (R137). -/
theorem sbox_eq_affine (x : Byte) : sbox x = affine (gfInv x) := by
  rw [gfInv_eq, affine_inverseFromSbox]

@[simp] theorem invSbox_sbox (x : Byte) : invSbox (sbox x) = x := by
  revert x
  decide +kernel

@[simp] theorem sbox_invSbox (x : Byte) : sbox (invSbox x) = x := by
  revert x
  decide +kernel

/-- Settles O32, one lemma a clause. -/
theorem sboxTables : Obligations.SboxTables :=
  fun x => ⟨sbox_eq_affine x, mul_gfInv, invSbox_sbox x, sbox_invSbox x⟩

end Sys2Proof.Machine
end

section
/-! PROOFS. The cipher and its inverse: each step of a round is undone by its counterpart, and so are the rounds
(spec/41_aes_decrypt.md R134 to R145). -/

namespace Sys2Proof.Machine

/-! ### The mixing of columns -/

/-- A column with each row the sum of all four, row `r + j` times `k`'s row `j`: the shape of both mixing maps (R141,
R144). `mixColumn_eq` and `invMixColumn_eq` tie it to the model. -/
def circulant (k a : Column) : Column :=
  ⟨mul k.row0 a.row0 ^^^ mul k.row1 a.row1 ^^^ mul k.row2 a.row2 ^^^ mul k.row3 a.row3,
   mul k.row3 a.row0 ^^^ mul k.row0 a.row1 ^^^ mul k.row1 a.row2 ^^^ mul k.row2 a.row3,
   mul k.row2 a.row0 ^^^ mul k.row3 a.row1 ^^^ mul k.row0 a.row2 ^^^ mul k.row1 a.row3,
   mul k.row1 a.row0 ^^^ mul k.row2 a.row1 ^^^ mul k.row3 a.row2 ^^^ mul k.row0 a.row3⟩

theorem mixColumn_eq (a : Column) : mixColumn a = circulant ⟨0x02, 0x03, 0x01, 0x01⟩ a := by
  simp only [mixColumn, circulant, one_mul_byte]

theorem invMixColumn_eq (a : Column) : invMixColumn a = circulant ⟨0x0e, 0x0b, 0x0d, 0x09⟩ a := rfl

/-- The coefficients of one such map after another: the product of two polynomials modulo y^4 + 1.
`circulant_circulant` ties it to the maps. -/
def circulantProduct (k l : Column) : Column :=
  ⟨mul k.row0 l.row0 ^^^ mul k.row1 l.row3 ^^^ mul k.row2 l.row2 ^^^ mul k.row3 l.row1,
   mul k.row0 l.row1 ^^^ mul k.row1 l.row0 ^^^ mul k.row2 l.row3 ^^^ mul k.row3 l.row2,
   mul k.row0 l.row2 ^^^ mul k.row1 l.row1 ^^^ mul k.row2 l.row0 ^^^ mul k.row3 l.row3,
   mul k.row0 l.row3 ^^^ mul k.row1 l.row2 ^^^ mul k.row2 l.row1 ^^^ mul k.row3 l.row0⟩

theorem circulant_circulant (k l a : Column) : circulant k (circulant l a) = circulant (circulantProduct k l) a := by
  simp only [circulant, circulantProduct, mul_xor_left, mul_xor_right, mul_assoc_byte, Column.mk.injEq]
  refine ⟨?_, ?_, ?_, ?_⟩ <;> ac_rfl

theorem circulant_one (a : Column) : circulant ⟨0x01, 0x00, 0x00, 0x00⟩ a = a := by
  simp only [circulant, one_mul_byte, zero_mul_byte]
  simp

@[simp] theorem invMixColumn_mixColumn (c : Column) : invMixColumn (mixColumn c) = c := by
  have hone : circulantProduct ⟨0x0e, 0x0b, 0x0d, 0x09⟩ ⟨0x02, 0x03, 0x01, 0x01⟩ = ⟨0x01, 0x00, 0x00, 0x00⟩ := by
    decide
  rw [mixColumn_eq, invMixColumn_eq, circulant_circulant, hone, circulant_one]

@[simp] theorem mixColumn_invMixColumn (c : Column) : mixColumn (invMixColumn c) = c := by
  have hone : circulantProduct ⟨0x02, 0x03, 0x01, 0x01⟩ ⟨0x0e, 0x0b, 0x0d, 0x09⟩ = ⟨0x01, 0x00, 0x00, 0x00⟩ := by
    decide
  rw [mixColumn_eq, invMixColumn_eq, circulant_circulant, hone, circulant_one]

/-- Settles O34, one lemma a direction. -/
theorem invMixColumnsInvertsMixColumns : Obligations.InvMixColumnsInvertsMixColumns :=
  fun c => ⟨invMixColumn_mixColumn c, mixColumn_invMixColumn c⟩

/-! ### The steps of a round -/

@[simp] theorem invMixColumns_mixColumns (s : AesState) : invMixColumns (mixColumns s) = s := by
  simp [invMixColumns, mixColumns]

@[simp] theorem mixColumns_invMixColumns (s : AesState) : mixColumns (invMixColumns s) = s := by
  simp [invMixColumns, mixColumns]

@[simp] theorem invSubBytes_subBytes (s : AesState) : invSubBytes (subBytes s) = s := by
  simp [invSubBytes, subBytes, mapState, mapColumn]

@[simp] theorem subBytes_invSubBytes (s : AesState) : subBytes (invSubBytes s) = s := by
  simp [invSubBytes, subBytes, mapState, mapColumn]

@[simp] theorem invShiftRows_shiftRows (s : AesState) : invShiftRows (shiftRows s) = s := rfl

@[simp] theorem shiftRows_invShiftRows (s : AesState) : shiftRows (invShiftRows s) = s := rfl

@[simp] theorem xorColumn_xorColumn (c d : Column) : xorColumn (xorColumn c d) d = c := by
  simp [xorColumn]

@[simp] theorem addRoundKey_addRoundKey (s : AesState) (w : List Column) (round : Nat) :
    addRoundKey (addRoundKey s w round) w round = s := by
  simp [addRoundKey]

/-- Settles O35: both sides read the same bytes of the block. -/
theorem invShiftRowsPermutation : Obligations.InvShiftRowsPermutation := fun _ => rfl

/-! ### The rounds -/

/-- The inverse rounds undo the forward rounds, each side between its half of a round without mixing (R134, R144). -/
theorem invRounds_forwardRounds (w : List Column) (n : Nat) (s : AesState) :
    invRounds w n (shiftRows (subBytes (forwardRounds w n s))) = shiftRows (subBytes s) := by
  induction n with
  | zero => rfl
  | succ n ih => simp [invRounds, forwardRounds, ih]

/-- The forward rounds undo the inverse rounds. -/
theorem forwardRounds_invRounds (w : List Column) (n : Nat) (s : AesState) :
    forwardRounds w n (invSubBytes (invShiftRows (invRounds w n s))) = invSubBytes (invShiftRows s) := by
  induction n generalizing s with
  | zero => rfl
  | succ n ih => simp [invRounds, forwardRounds, ih]

theorem invCipherState_cipherState (w : List Column) (s : AesState) : invCipherState w (cipherState w s) = s := by
  simp [invCipherState, cipherState, invRounds_forwardRounds]

theorem cipherState_invCipherState (w : List Column) (s : AesState) : cipherState w (invCipherState w s) = s := by
  simp [invCipherState, cipherState, forwardRounds_invRounds]

/-! ### The cipher on blocks -/

theorem invCipher_cipher (key : ByteString) {p : ByteString} (h : p.length = 16) : invCipher key (cipher key p) = p := by
  rw [invCipher, cipher, toState_fromState, invCipherState_cipherState, fromState_toState h]

theorem cipher_invCipher (key : ByteString) {c : ByteString} (h : c.length = 16) : cipher key (invCipher key c) = c := by
  rw [invCipher, cipher, toState_fromState, cipherState_invCipherState, fromState_toState h]

/-- Settles O29: the two ciphers undo each other on states, and blocks are states. -/
theorem invCipherInvertsCipher : Obligations.InvCipherInvertsCipher := fun key _ => invCipher_cipher key

/-- Settles O30: the forward cipher, which inverts the inverse cipher on both sides, gives the one block. -/
theorem invCipherBijective : Obligations.InvCipherBijective := by
  intro key c hc
  refine ⟨invCipher_length key c, cipher key c, ⟨cipher_length key c, invCipher_cipher key hc⟩, ?_⟩
  rintro p ⟨hp, rfl⟩
  exact (cipher_invCipher key hp).symm

end Sys2Proof.Machine
end

section
/-! PROOFS. The key schedule, whose words later ones never change (spec/41_aes_decrypt.md R143). -/

namespace Sys2Proof.Machine

theorem wordAt_append_of_lt {w v : List Column} {i : Nat} (h : i < w.length) : wordAt (w ++ v) i = wordAt w i :=
  List.getD_append _ _ _ _ h

theorem wordAt_append_length (w : List Column) (c : Column) : wordAt (w ++ [c]) w.length = c := by
  simp [wordAt]

/-- More words leave the earlier ones as they are. -/
theorem wordAt_expandWords_of_lt (k : Nat) {w : List Column} {i : Nat} (h : i < w.length) :
    wordAt (expandWords k w) i = wordAt w i := by
  induction k generalizing w with
  | zero => rfl
  | succ k ih => rw [expandWords, ih (by rw [List.length_append]; omega), wordAt_append_of_lt h]

/-- Each new word is the word four before it and the schedule's term, exclusive-or (R143). -/
theorem wordAt_expandWords (k : Nat) {w : List Column} {i : Nat} (hw : 4 ≤ w.length) (hi : w.length ≤ i)
    (hk : i < w.length + k) :
    wordAt (expandWords k w) i = xorColumn (wordAt (expandWords k w) (i - 4))
      (scheduleTerm i (wordAt (expandWords k w) (i - 1))) := by
  induction k generalizing w with
  | zero => omega
  | succ k ih =>
    rw [expandWords]
    generalize hnext : xorColumn (wordAt w (w.length - 4)) _ = next
    have hlength : (w ++ [next]).length = w.length + 1 := List.length_append
    have hearlier (j : Nat) (hj : j < w.length) : wordAt (expandWords k (w ++ [next])) j = wordAt w j := by
      rw [wordAt_expandWords_of_lt k (by omega), wordAt_append_of_lt hj]
    rcases hi.eq_or_lt with rfl | hlt
    · rw [hearlier (w.length - 4) (by omega), hearlier (w.length - 1) (by omega), hnext,
        wordAt_expandWords_of_lt k (by omega), wordAt_append_length]
    · exact ih (by omega) (by omega) (by omega)

theorem rcon_eq_xtimePow {j : Nat} (hpos : 1 ≤ j) (hle : j ≤ 10) : rcon j = xtimePow (j - 1) 0x01 := by
  interval_cases j <;> decide

/-- Word `i` of the schedule (R143). -/
theorem wordAt_keyExpansion (key : ByteString) {i : Nat} (hlo : 4 ≤ i) (hhi : i < 44) :
    wordAt (keyExpansion key) i = xorColumn (wordAt (keyExpansion key) (i - 4))
      (scheduleTerm i (wordAt (keyExpansion key) (i - 1))) :=
  wordAt_expandWords 40 (by simp) (by simpa using hlo) (by simpa using hhi)

/-- Settles O31: the first words are the key's, and `wordAt_keyExpansion` gives the others, by the two branches of the
schedule's term. -/
theorem keyScheduleRecurrence : Obligations.KeyScheduleRecurrence := by
  refine fun key => ⟨keyExpansion_length key, fun i hi => ?first, fun i hlo hhi hmod => ?plain,
    fun i hlo hhi hmod => ?substituted⟩
  case first =>
    rw [keyExpansion, wordAt_expandWords_of_lt _ (by simpa using hi)]
    interval_cases i <;> rfl
  case plain => rw [wordAt_keyExpansion key hlo hhi, scheduleTerm, if_neg hmod]
  case substituted =>
    rw [wordAt_keyExpansion key hlo hhi, scheduleTerm, if_pos hmod, rcon_eq_xtimePow (by omega) (by omega)]
    simp [subWord, rotWord, mapColumn, xorColumn]

end Sys2Proof.Machine
end

section
/-! PROOFS. Blocks without chaining, and DECRYPT, which applies them to the buffers (spec/41_aes_decrypt.md R130 to
R132, R145). -/

namespace Sys2Proof.Machine

open Sys2Proof.Claims

/-! ### Parts of byte strings -/

theorem memRead_drop_take (m : Memory) {i n j k : Nat} (h : j + k ≤ n) :
    ((memRead m i n).drop j).take k = memRead m (i + j) k := by
  apply List.ext_getElem?
  intro l
  simp only [List.getElem?_take, List.getElem?_drop, memRead_getElem?, Nat.add_assoc]
  by_cases hl : l < k
  · rw [if_pos hl, if_pos hl, if_pos (by omega)]
  · rw [if_neg hl, if_neg hl]

/-- What was written is read back, from any place within it. -/
theorem memRead_memWrite (m : Memory) (i : Nat) {s : ByteString} {j k : Nat} (h : j + k ≤ s.length) :
    memRead (memWrite m i s) (i + j) k = (s.drop j).take k := by
  apply List.ext_getElem?
  intro l
  rw [List.getElem?_take, List.getElem?_drop, memRead_getElem?]
  by_cases hl : l < k
  · rw [if_pos hl, if_pos hl, read_memWrite, if_pos (by omega), Nat.add_assoc, Nat.add_sub_cancel_left,
      List.getD_eq_getElem _ _ (by omega), List.getElem?_eq_getElem (by omega)]
  · rw [if_neg hl, if_neg hl]

theorem memRead_memWrite_self (m : Memory) (i : Nat) (s : ByteString) : memRead (memWrite m i s) i s.length = s := by
  simpa using memRead_memWrite m i (j := 0) (k := s.length) (s := s) (by omega)

/-! ### Blocks -/

theorem blockOf_append_of_le {c : ByteString} {i : Nat} (h : 16 * i + 16 ≤ c.length) (d : ByteString) :
    blockOf (c ++ d) i = blockOf c i := by
  rw [blockOf, List.drop_append_of_le_length (by omega), List.take_append_of_le_length (by simp; omega), blockOf]

theorem blockOf_append_add {c : ByteString} {n : Nat} (h : c.length = 16 * n) (d : ByteString) (i : Nat) :
    blockOf (c ++ d) (n + i) = blockOf d i := by
  rw [blockOf, Nat.mul_add, ← h, List.drop_length_add_append, blockOf]

/-- The blocks of a string made of blocks. -/
theorem blockOf_flatMap {f : Nat → ByteString} (hf : ∀ i, (f i).length = 16) {i n : Nat} (hi : i < n) :
    blockOf ((List.range n).flatMap f) i = f i := by
  induction n with
  | zero => omega
  | succ n ih =>
    have hlength := flatMap_blocks_length f hf n
    rw [List.range_succ, List.flatMap_append, List.flatMap_singleton]
    rcases Nat.lt_succ_iff_lt_or_eq.mp hi with hlt | rfl
    · rw [blockOf_append_of_le (by omega), ih hlt]
    · exact (blockOf_append_add hlength (f i) 0).trans (List.take_of_length_le (hf i).le)

theorem blockOf_memRead (m : Memory) {n i : Nat} (h : 16 * i + 16 ≤ n) :
    blockOf (memRead m 0 n) i = memRead m (16 * i) 16 := by
  rw [blockOf, memRead_drop_take m h, Nat.zero_add]

/-! ### No chaining -/

/-- Block `i` of the plaintext is the inverse cipher of block `i` of the ciphertext (R132). -/
theorem blockOf_ecbDecrypt (key : ByteString) {c : ByteString} {i : Nat} (hi : i < c.length / 16) :
    blockOf (ecbDecrypt key c) i = invCipher key (blockOf c i) :=
  blockOf_flatMap (fun _ => invCipher_length _ _) hi

theorem ecbDecrypt_append (key : ByteString) {c : ByteString} (hc : c.length % 16 = 0) (d : ByteString) :
    ecbDecrypt key (c ++ d) = ecbDecrypt key c ++ ecbDecrypt key d := by
  have hblocks : c.length = 16 * (c.length / 16) := by omega
  have hcount : (c ++ d).length / 16 = c.length / 16 + d.length / 16 := by
    rw [List.length_append]
    omega
  have hfirst : (List.range (c.length / 16)).flatMap (fun i => invCipher key (blockOf (c ++ d) i)) = ecbDecrypt key c :=
    List.flatMap_congr fun i hi => by
      rw [blockOf_append_of_le (by have := List.mem_range.mp hi; omega)]
  rw [ecbDecrypt, hcount, List.range_add, List.flatMap_append, List.flatMap_map, hfirst]
  simp only [blockOf_append_add hblocks, ecbDecrypt]

/-- Settles O28, one lemma a clause. -/
theorem ecbBlocksIndependent : Obligations.EcbBlocksIndependent :=
  fun key c hc => ⟨ecbDecrypt_length key c hc, fun _ => blockOf_ecbDecrypt key, fun d _ => ecbDecrypt_append key hc d⟩

/-! ### DECRYPT, branch by branch -/

/-- A failure of DECRYPT or UNPAD clears OUT_LEN and writes the three outcome registers (R241). -/
theorem raise_failOutput_eq_ended (k : Kind) (st : Stage) (info : Half) (b : Block) :
    raise failOutput k st info b = ended (outputCleared b) (code k) (stageCode st) info := rfl

theorem decryptCommand_of_unlocked {b : Block} (hl : b.cfgLock = false) :
    decryptCommand b = ended (outputCleared b) 0x21 0x07 0x0000 := if_pos hl

theorem decryptCommand_of_badKey {b : Block} (hl : b.cfgLock = true) (hok : b.keyOk = false) :
    decryptCommand b = ended (outputCleared b) 0x11 0x03 (BitVec.ofNat 16 b.keyLen.toNat) := by
  simp only [decryptCommand, hl, hok, reduceCtorEq, if_false, if_true, zext16_eq_ofNat]
  rfl

theorem decryptCommand_of_notBlocks {b : Block} (hl : b.cfgLock = true) (hok : b.keyOk = true)
    (hn : b.inLen.toNat = 0 ∨ b.inLen.toNat % 16 ≠ 0) :
    decryptCommand b = ended (outputCleared b) 0x12 0x03 b.inLen := by
  have hblocks : isNotBlocks (operandLength b) = true := (isNotBlocks_iff _).mpr hn
  simp only [decryptCommand, hl, hok, reduceCtorEq, if_false, if_pos hblocks, half_operandLength]
  rfl

theorem decryptCommand_of_overflow {b : Block} (hl : b.cfgLock = true) (hok : b.keyOk = true)
    (hn : b.inLen.toNat % 16 = 0) (hbig : 256 < b.inLen.toNat) :
    decryptCommand b = ended (outputCleared b) 0x23 0x07 b.inLen := by
  have hblocks : isNotBlocks (operandLength b) = false := (isNotBlocks_eq_false b.inLen.toNat).mpr ⟨by omega, hn⟩
  have hbig' : Config.bufferBytes < operandLength b := hbig
  simp only [decryptCommand, hl, hok, hblocks, reduceCtorEq, if_false, if_pos hbig', half_operandLength]
  rfl

/-- With a usable key and whole blocks within the buffer DECRYPT writes the plaintext (R130). -/
theorem decryptCommand_of_blocks {b : Block} (hl : b.cfgLock = true) (hok : b.keyOk = true)
    (hne : b.inLen.toNat ≠ 0) (hn : b.inLen.toNat % 16 = 0) (hle : b.inLen.toNat ≤ 256) :
    decryptCommand b = succeed (writeOutput (ecbDecrypt (keyString b) (memRead b.ibuf 0 b.inLen.toNat)) b) := by
  have hblocks : isNotBlocks (operandLength b) = false := (isNotBlocks_eq_false _).mpr ⟨hne, hn⟩
  have hle' : ¬ Config.bufferBytes < operandLength b := Nat.not_lt.mpr hle
  simp only [decryptCommand, hl, hok, hblocks, reduceCtorEq, if_false, if_neg hle']
  rfl

/-- Settles O26: `decryptCommand`'s equation in each of its five branches, and in the last the written blocks read
back. -/
theorem decryptFollowsItsRule : Obligations.DecryptFollowsItsRule := by
  refine fun s => ⟨fun hl => ?unlocked, fun hl hok => ?badKey, fun hl hok hn => ?notBlocks,
    fun hl hok hn hbig => ?overflow, fun hl hok hne hn hle => ?blocks⟩
  case unlocked => rw [exec_decrypt, decryptCommand_of_unlocked hl]
  case badKey => rw [exec_decrypt, decryptCommand_of_badKey hl hok]
  case notBlocks => rw [exec_decrypt, decryptCommand_of_notBlocks hl hok hn]
  case overflow => rw [exec_decrypt, decryptCommand_of_overflow hl hok hn hbig]
  case blocks =>
    have heffect := decryptCommand_of_blocks hl hok hne hn hle
    generalize hc : memRead s.block.ibuf 0 s.block.inLen.toNat = c at heffect
    have hclength : c.length = s.block.inLen.toNat := hc ▸ memRead_length _ _ _
    have hlength : (ecbDecrypt (keyString s.block) c).length = s.block.inLen.toNat :=
      (ecbDecrypt_length _ c (hclength ▸ hn)).trans hclength
    refine ⟨memWrite s.block.obuf 0 (ecbDecrypt (keyString s.block) c), ?_, fun j hj => ?_, fun i hi => ?_⟩
    · have hout : half (ecbDecrypt (keyString s.block) c).length = s.block.inLen := by
        rw [hlength]
        exact half_operandLength s.block
      rw [exec_decrypt, heffect, writeOutput, hout]
      rfl
    · calc memRead (memWrite s.block.obuf 0 (ecbDecrypt (keyString s.block) c)) (16 * j) 16
        _ = blockOf (ecbDecrypt (keyString s.block) c) j := by
            rw [← Nat.zero_add (16 * j), memRead_memWrite _ _ (by omega), blockOf]
        _ = invCipher (keyString s.block) (blockOf c j) := blockOf_ecbDecrypt _ (hclength ▸ hj)
        _ = invCipher s.block.key.toList (memRead s.block.ibuf (16 * j) 16) := by
            rw [← hc, blockOf_memRead _ (by omega), keyString]
    · rw [read_memWrite, if_neg (by omega)]

/-! ### DECRYPT again -/

/-- What DECRYPT and UNPAD leave in the block, given the failure or the output. -/
def outputCommand : Except (Kind × Stage × Half) ByteString → Block → Block
  | .error (k, st, info), b => raise failOutput k st info b
  | .ok out, b => succeed (writeOutput out b)

/-- The failure or the plaintext of DECRYPT, a function of its operands (R130). `decryptCommand_eq_outputCommand` ties
it to the model. -/
def decryptOutcome (b : Block) : Except (Kind × Stage × Half) ByteString :=
  if b.cfgLock = false then .error (.notConfigured, .interface, 0x0000)
  else if b.keyOk = false then .error (.invalidKeySize, .decrypt, zext16 b.keyLen)
  else if isNotBlocks (operandLength b) then .error (.invalidCiphertextLength, .decrypt, half (operandLength b))
  else if Config.bufferBytes < operandLength b then .error (.lengthOverflow, .interface, half (operandLength b))
  else .ok (ecbDecrypt (keyString b) (operand b (operandLength b)))

theorem decryptCommand_eq_outputCommand (b : Block) : decryptCommand b = outputCommand (decryptOutcome b) b := by
  unfold decryptCommand decryptOutcome
  dsimp only
  split_ifs <;> rfl

/-- DECRYPT leaves its own operands as they were. -/
theorem decryptOutcome_outputCommand (r : Except (Kind × Stage × Half) ByteString) (b : Block) :
    decryptOutcome (outputCommand r b) = decryptOutcome b := by
  cases r <;> rfl

/-- The same output written again leaves every register, and every byte of OBUF, as it is. -/
theorem outputCommand_outputCommand (r : Except (Kind × Stage × Half) ByteString) (b : Block) :
    outputCommand r (outputCommand r b) =
        { outputCommand r b with obuf := (outputCommand r (outputCommand r b)).obuf } ∧
      ∀ i, (outputCommand r (outputCommand r b)).obuf.read i = (outputCommand r b).obuf.read i := by
  cases r with
  | error e => exact ⟨rfl, fun _ => rfl⟩
  | ok out =>
    refine ⟨rfl, fun i => ?_⟩
    simp only [outputCommand, succeed_obuf, writeOutput_obuf, read_memWrite]
    split <;> rfl

/-- Settles O27: the second DECRYPT has the same outcome, because the first kept the operands. -/
theorem decryptIdempotent : Obligations.DecryptIdempotent := by
  intro s
  obtain ⟨hregisters, hbytes⟩ := outputCommand_outputCommand (decryptOutcome s.block) s.block
  refine ⟨_, _, exec_decrypt s, exec_decrypt _, ?_⟩
  simp only [withBlock_block, withBlock_withBlock, decryptCommand_eq_outputCommand, decryptOutcome_outputCommand]
  exact ⟨congrArg s.withBlock hregisters, hbytes⟩

end Sys2Proof.Machine
end

section
/-! PROOFS. The commands DECRYPT, UNPAD and DECODE against the source's functions (spec/41_aes_decrypt.md R131,
spec/42_unpad.md R171, spec/44_decode.md R211). -/

namespace Sys2Proof.Machine

/-! ### The configured key -/

theorem configuredKey_length (b : Block) : (configuredKey b).length = b.keyLen.toNat := by
  have hlt := b.keyLen.isLt
  simp only [configuredKey, List.length_take, List.length_append, keyString_length, bytes_length]
  omega

theorem configuredKey_of_keyLen {b : Block} (h : b.keyLen = 16) : configuredKey b = keyString b := by
  rw [configuredKey, h]
  exact List.take_left' (keyString_length b)

/-- Under the lock KEY_OK says whether the source decrypts or reports the key's length (R25, R131). -/
theorem decryptBlocks_configuredKey {b : Block} (hl : b.cfgLock = true) (hconfig : b.configLegal) (c : ByteString) :
    (b.keyOk = false ∧ decryptBlocks c (configuredKey b) = .err .invalidKeySize b.keyLen.toNat) ∨
    (b.keyOk = true ∧ decryptBlocks c (configuredKey b) =
      if isNotBlocks c.length then .err .invalidCiphertextLength c.length else .ok (ecbDecrypt (keyString b) c)) := by
  obtain ⟨_, hlocked⟩ := hconfig
  have hkey : b.keyOk = true ↔ b.keyLen = 16 := hlocked hl
  by_cases hlen : b.keyLen = 16
  · refine .inr ⟨hkey.mpr hlen, ?_⟩
    rw [decryptBlocks, configuredKey_of_keyLen hlen, if_neg (not_not_intro (keyString_length b))]
  · have hne : b.keyLen.toNat ≠ Config.keyBytes := mt (BitVec.eq_of_toNat_eq (y := 16)) hlen
    refine .inl ⟨Bool.eq_false_iff.mpr (mt hkey.mp hlen), ?_⟩
    rw [decryptBlocks, configuredKey_length, if_pos hne]

/-! ### DECRYPT and UNPAD -/

/-- How a result of `decryptBlocks` or `unpad` shows in the block (R131, R171), `showDecodeResult`'s counterpart.
`decryptCommand_eq_showOutputResult` and `unpadCommand_eq_showOutputResult` tie it to the model. -/
def showOutputResult (st : Stage) (r : Result ByteString) (b : Block) : Block :=
  match r with
  | .ok out => succeed (writeOutput out b)
  | .err k info => raise failOutput k st (half info) b
  | .notApplicable => b

theorem decryptCommand_eq_showOutputResult {b : Block} (hl : b.cfgLock = true) (hconfig : b.configLegal)
    (hle : b.inLen.toNat ≤ 256) : decryptCommand b =
      showOutputResult .decrypt (decryptBlocks (memRead b.ibuf 0 b.inLen.toNat) (configuredKey b)) b := by
  have hwithin : ¬ Config.bufferBytes < operandLength b := Nat.not_lt.mpr hle
  have hoperand : memRead b.ibuf 0 b.inLen.toNat = operand b (operandLength b) := rfl
  rw [hoperand]
  rcases decryptBlocks_configuredKey hl hconfig (operand b (operandLength b)) with ⟨hok, he⟩ | ⟨hok, he⟩ <;>
    simp only [decryptCommand, hl, hok, he, operand_length, hwithin, reduceCtorEq, if_true, if_false]
  · rw [zext16_eq_ofNat]
    rfl
  · split_ifs <;> rfl

theorem unpadCommand_eq_showOutputResult {b : Block} (hle : b.inLen.toNat ≤ 256) :
    unpadCommand b = showOutputResult .unpad (unpad (memRead b.ibuf 0 b.inLen.toNat)) b := by
  have hwithin : ¬ Config.bufferBytes < operandLength b := Nat.not_lt.mpr hle
  have hoperand : memRead b.ibuf 0 b.inLen.toNat = operand b (operandLength b) := rfl
  simp only [unpadCommand, unpad, hoperand, operand_length, hwithin, if_false]
  split_ifs <;> rfl

/-- A result that OBUF and the 16-bit registers can hold. -/
def Result.Fits : Result ByteString → Prop
  | .ok out => out.length ≤ 256
  | .err _ info => info < 65536
  | .notApplicable => False

theorem decryptBlocks_fits {c key : ByteString} (hc : c.length ≤ 256) (hkey : key.length ≤ 256) :
    (decryptBlocks c key).Fits := by
  unfold decryptBlocks
  split_ifs with hsize hblocks
  · exact Nat.lt_of_le_of_lt hkey (by decide)
  · exact Nat.lt_of_le_of_lt hc (by decide)
  · have hmod : c.length % 16 = 0 := ((isNotBlocks_eq_false _).mp (by simpa using hblocks)).2
    exact (ecbDecrypt_length key c hmod).trans_le hc

theorem unpad_fits {p : ByteString} (hp : p.length ≤ 256) : (unpad p).Fits := by
  unfold unpad
  split_ifs
  · exact Nat.lt_of_le_of_lt hp (by decide)
  · exact Nat.lt_of_le_of_lt hp (by decide)
  · exact Nat.lt_of_le_of_lt hp (by decide)
  · exact (List.length_take_le' _ _).trans hp

/-- A result as the host finds it in the registers and OBUF of `t`, the block before being `b`. -/
def Result.FoundIn (r : Result ByteString) (stage : Byte) (b t : Block) : Prop :=
  match r with
  | .ok out => t.status = 0x01 ∧ t.outLen.toNat = out.length ∧ memRead t.obuf 0 out.length = out
  | .err k info => t.status = code k ∧ t.errStage = stage ∧ t.errInfo.toNat = info ∧ t.outLen = 0x0000 ∧
      t.obuf = b.obuf
  | .notApplicable => False

/-- A result that fits is found as it was shown. -/
theorem foundIn_showOutputResult {r : Result ByteString} (h : r.Fits) (st : Stage) (b : Block) :
    r.FoundIn (stageCode st) b (showOutputResult st r b) := by
  cases r with
  | ok out =>
    have hle : out.length ≤ 256 := h
    exact ⟨rfl, (half_toNat _).trans (Nat.mod_eq_of_lt (by omega)), memRead_memWrite_self b.obuf 0 out⟩
  | err k info => exact ⟨rfl, rfl, (half_toNat info).trans (Nat.mod_eq_of_lt h), rfl, rfl⟩
  | notApplicable => exact h

/-- Settles O44: each command shows its function's result, which fits. -/
theorem componentsRefineTheSource : Obligations.ComponentsRefineTheSource := by
  refine fun s hle => ⟨fun hl hconfig => ⟨_, exec_decrypt s, ?decrypt⟩, ⟨_, exec_unpad s, ?unpad⟩⟩
  case decrypt =>
    have hkey : (configuredKey s.block).length ≤ 256 := (configuredKey_length _).trans_le s.block.keyLen.isLt.le
    rw [withBlock_block, decryptCommand_eq_showOutputResult hl hconfig hle]
    exact foundIn_showOutputResult (decryptBlocks_fits ((memRead_length _ _ _).trans_le hle) hkey) .decrypt s.block
  case unpad =>
    rw [withBlock_block, unpadCommand_eq_showOutputResult hle]
    exact foundIn_showOutputResult (unpad_fits ((memRead_length _ _ _).trans_le hle)) .unpad s.block

/-! ### DECODE -/

/-- The model's extraction from IBUF is the source's from the payload (R213). -/
theorem payloadCiphertext_memRead (m : Memory) (n : Nat) :
    (∃ c, extractCiphertext m n = some c ∧ payloadCiphertext (memRead m 0 n) = .ok c) ∨
    (extractCiphertext m n = none ∧ payloadCiphertext (memRead m 0 n) = .err .malformedLength n) := by
  unfold extractCiphertext payloadCiphertext
  rw [memRead_length]
  by_cases h16 : n = 16
  · subst h16
    exact .inl ⟨_, rfl, rfl⟩
  · by_cases h18 : n = 18
    · subst h18
      exact .inl ⟨_, rfl, congrArg Result.ok (memRead_drop_take m (i := 0) (n := 18) (j := 2) (k := 16) le_rfl)⟩
    · exact .inr ⟨(if_neg h16).trans (if_neg h18), (if_neg h18).trans (if_neg h16)⟩

/-- The record gives back the body it was read from (R191). -/
theorem recordBody_telemetry {s : ByteString} (h : s.length = 8) : recordBody (telemetry s) = s := by
  match s, h with
  | [_, _, _, _, _, _, _, _], _ =>
    simp [recordBody, telemetry, byteAt, sint16_eq_toInt, sint8_eq_toInt]

theorem andThen_ok {α β : Type} (v : α) (f : α → Result β) : andThen (.ok v) f = f v := rfl

theorem andThen_err {α β : Type} (k : Kind) (info : Nat) (f : α → Result β) : andThen (.err k info) f = .err k info := rfl

/-- The last stages of DECODE are `unpad`, then `parse` (R210, R211). -/
theorem decodePlaintext_eq_showDecodeResult {p : ByteString} (hp : p.length = 16) (b : Block) :
    decodePlaintext p b = showDecodeResult (andThen (unpad p) parse) b := by
  have hblocks : isNotBlocks 16 = false := rfl
  by_cases hvalue : badPadValue p = true
  · simp only [decodePlaintext, unpad, hp, hblocks, hvalue, Bool.false_eq_true, if_true, if_false]
    rfl
  by_cases hbytes : badPadBytes p = true
  · simp only [decodePlaintext, unpad, hp, hblocks, hvalue, hbytes, Bool.false_eq_true, if_true, if_false]
    rfl
  simp only [decodePlaintext, unpad, hp, hblocks, hvalue, hbytes, Bool.false_eq_true, if_false, andThen_ok]
  have hlength : (unpadded p).length = 16 - padCount p := by simp [unpadded, hp]
  by_cases hbody : 16 - padCount p = 8
  · have htake : p.take 8 = unpadded p := by rw [unpadded, hp, hbody]
    rw [parse_of_length (hlength.trans hbody), showDecodeResult, recordBody_telemetry (hlength.trans hbody), ← htake]
    exact if_pos hbody
  · rw [parse, hlength]
    simp only [Config.blockBytes, Config.bodyBytes, hbody, if_false]
    rfl

/-- The stages of DECODE after the filter are the source's (R210, R211). -/
theorem decodeCommand_of_vendor {b : Block} (hl : b.cfgLock = true) (hconfig : b.configLegal)
    (hvid : b.advVid = b.expVid) : decodeCommand b = showDecodeResult
      (andThen (payloadCiphertext (memRead b.ibuf 0 b.inLen.toNat)) fun c =>
        andThen (decryptBlocks c (configuredKey b)) fun p => andThen (unpad p) parse) b := by
  unfold decodeCommand
  rw [if_neg (by simp [hl]), if_neg (not_not_intro hvid), operandLength]
  rcases payloadCiphertext_memRead b.ibuf b.inLen.toNat with ⟨c, hextract, hpayload⟩ | ⟨hextract, hpayload⟩ <;>
    simp only [hextract, hpayload, andThen_ok, andThen_err]
  · have hc := extractCiphertext_length hextract
    rcases decryptBlocks_configuredKey hl hconfig c with ⟨hok, he⟩ | ⟨hok, he⟩
    · rw [if_pos hok, he, andThen_err, zext16_eq_ofNat]
      rfl
    · have hblocks : isNotBlocks c.length = false := hc ▸ rfl
      have hplain : (ecbDecrypt (keyString b) c).length = 16 := (ecbDecrypt_length _ c (by omega)).trans hc
      rw [if_neg (by simp [hok]), he, if_neg (by simp [hblocks]), andThen_ok]
      exact decodePlaintext_eq_showDecodeResult hplain b
  · rfl

theorem decodeCommand_eq_showDecodeResult {b : Block} (hl : b.cfgLock = true) (hconfig : b.configLegal) :
    decodeCommand b = showDecodeResult
      (beaconDecode b.advVid (memRead b.ibuf 0 b.inLen.toNat) b.expVid (configuredKey b)) b := by
  by_cases hvid : b.advVid = b.expVid
  · rw [decodeCommand_of_vendor hl hconfig hvid, beaconDecode, if_neg (not_not_intro hvid)]
  · rw [decodeCommand, if_neg (by simp [hl]), if_pos hvid, beaconDecode, if_pos hvid]
    rfl

/-- Settles O43: the stages agree one by one, and a length above 256 is neither form's. -/
theorem decodeRefinesTheSource : Obligations.DecodeRefinesTheSource := by
  refine fun s hl hconfig => ⟨fun _ => ?within, fun hbig hvid => ?above⟩
  case within => rw [exec_decode, decodeCommand_eq_showDecodeResult hl hconfig]
  case above =>
    have h16 : s.block.inLen.toNat ≠ 16 := by omega
    have h18 : s.block.inLen.toNat ≠ 18 := by omega
    have hpayload : payloadCiphertext (memRead s.block.ibuf 0 s.block.inLen.toNat) =
        .err .malformedLength s.block.inLen.toNat := by
      rw [payloadCiphertext, memRead_length]
      exact (if_neg h18).trans (if_neg h16)
    rw [exec_decode, decodeCommand_of_vendor hl hconfig hvid, hpayload, andThen_err]

end Sys2Proof.Machine
end

section
/-! PROOFS. UNPAD's checks read off IBUF byte by byte, UNPAD branch by branch, and the harness padding
(spec/42_unpad.md R170, R171, R174). -/

namespace Sys2Proof.Machine

open Sys2Proof.Claims

/-! ### The operand's bytes -/

theorem byteAt_memRead (m : Memory) {i n j : Nat} (h : j < n) : byteAt (memRead m i n) j = m.read (i + j) := by
  rw [byteAt, List.getD_eq_getElem?_getD, memRead_getElem?, if_pos h, Option.getD_some]

theorem memRead_take (m : Memory) {i n k : Nat} (h : k ≤ n) : (memRead m i n).take k = memRead m i k := by
  simpa using memRead_drop_take m (i := i) (n := n) (j := 0) (k := k) (by omega)

theorem memRead_drop (m : Memory) {i n k : Nat} (h : k ≤ n) : (memRead m i n).drop k = memRead m (i + k) (n - k) := by
  rw [← memRead_drop_take m (i := i) (n := n) (j := k) (k := n - k) (by omega), List.take_of_length_le (by simp)]

theorem mem_memRead {m : Memory} {i n : Nat} {v : Byte} :
    v ∈ memRead m i n ↔ ∃ j, i ≤ j ∧ j < i + n ∧ m.read j = v := by
  rw [List.mem_iff_getElem?]
  simp only [memRead_getElem?, Option.ite_none_right_eq_some, Option.some.injEq]
  constructor
  · rintro ⟨j, hj, hv⟩
    exact ⟨i + j, by omega, by omega, hv⟩
  · rintro ⟨j, hij, hj, hv⟩
    exact ⟨j - i, by omega, by rwa [Nat.add_sub_cancel' hij]⟩

/-! ### The checks on the operand -/

/-- The padding count is the operand's last byte (R170). -/
theorem padCount_memRead (m : Memory) {n : Nat} (hne : n ≠ 0) :
    padCount (memRead m 0 n) = (m.read (n - 1)).toNat := by
  rw [padCount, memRead_length, byteAt_memRead m (by omega), Nat.zero_add]

theorem badPadValue_eq_true (p : ByteString) : badPadValue p = true ↔ padCount p < 1 ∨ 16 < padCount p := by
  simp [badPadValue]

/-- The padding bytes are wrong exactly if one of the last `p` bytes read is not `p` (R170). -/
theorem badPadBytes_memRead (m : Memory) (n : Nat) : badPadBytes (memRead m 0 n) = true ↔
    ∃ j, n - padCount (memRead m 0 n) ≤ j ∧ j < n ∧ (m.read j).toNat ≠ padCount (memRead m 0 n) := by
  rw [badPadBytes, List.any_eq_true, memRead_length]
  generalize padCount (memRead m 0 n) = p
  rw [memRead_drop m (Nat.sub_le n p)]
  simp only [mem_memRead, bne_iff_ne]
  constructor
  · rintro ⟨_, ⟨j, hlow, hhigh, rfl⟩, hne⟩
    exact ⟨j, by omega, by omega, hne⟩
  · rintro ⟨j, hlow, hhigh, hne⟩
    exact ⟨_, ⟨j, by omega, by omega, rfl⟩, hne⟩

theorem unpadded_memRead (m : Memory) (n : Nat) :
    unpadded (memRead m 0 n) = memRead m 0 (n - padCount (memRead m 0 n)) := by
  rw [unpadded, memRead_length, memRead_take m (Nat.sub_le _ _)]

/-! ### `unpad` on whole blocks of a buffer, `p` being the last byte (R171) -/

section
variable {m : Memory} {n p : Nat}

theorem unpad_memRead_of_badPadValue (hne : n ≠ 0) (hn : n % 16 = 0) (hp : (m.read (n - 1)).toNat = p)
    (hbad : p < 1 ∨ 16 < p) : unpad (memRead m 0 n) = .err .invalidPaddingValue n := by
  have hsize : isNotBlocks n = false := (isNotBlocks_eq_false n).mpr ⟨hne, hn⟩
  have hvalue : badPadValue (memRead m 0 n) = true := by
    rwa [badPadValue_eq_true, padCount_memRead m hne, hp]
  rw [unpad, memRead_length, if_neg (by simp [hsize]), if_pos hvalue]

theorem badPadValue_memRead_eq_false (hne : n ≠ 0) (hp : (m.read (n - 1)).toNat = p) (hpos : 1 ≤ p) (h16 : p ≤ 16) :
    badPadValue (memRead m 0 n) = false := by
  rw [badPadValue_eq_false, padCount_memRead m hne, hp]
  exact ⟨hpos, h16⟩

theorem unpad_memRead_of_badPadBytes (hne : n ≠ 0) (hn : n % 16 = 0) (hp : (m.read (n - 1)).toNat = p)
    (hpos : 1 ≤ p) (h16 : p ≤ 16) (hbad : ∃ j, n - p ≤ j ∧ j < n ∧ (m.read j).toNat ≠ p) :
    unpad (memRead m 0 n) = .err .invalidPaddingBytes n := by
  have hsize : isNotBlocks n = false := (isNotBlocks_eq_false n).mpr ⟨hne, hn⟩
  have hvalue := badPadValue_memRead_eq_false hne hp hpos h16
  have hbytes : badPadBytes (memRead m 0 n) = true := by
    rwa [badPadBytes_memRead, padCount_memRead m hne, hp]
  rw [unpad, memRead_length, if_neg (by simp [hsize]), if_neg (by simp [hvalue]), if_pos hbytes]

theorem unpad_memRead_of_padded (hne : n ≠ 0) (hn : n % 16 = 0) (hp : (m.read (n - 1)).toNat = p)
    (hpos : 1 ≤ p) (h16 : p ≤ 16) (hgood : ∀ j, n - p ≤ j → j < n → (m.read j).toNat = p) :
    unpad (memRead m 0 n) = .ok (memRead m 0 (n - p)) := by
  have hsize : isNotBlocks (memRead m 0 n).length = false := by
    rw [memRead_length]
    exact (isNotBlocks_eq_false n).mpr ⟨hne, hn⟩
  have hvalue := badPadValue_memRead_eq_false hne hp hpos h16
  have hbytes : badPadBytes (memRead m 0 n) = false := by
    rw [Bool.eq_false_iff, ne_eq, badPadBytes_memRead, padCount_memRead m hne, hp]
    rintro ⟨j, hlow, hhigh, hwrong⟩
    exact hwrong (hgood j hlow hhigh)
  have hmessage : unpadded (memRead m 0 n) = memRead m 0 (n - p) := by
    rw [unpadded_memRead, padCount_memRead m hne, hp]
  exact unpad_eq_ok_iff.mpr ⟨hsize, hvalue, hbytes, hmessage⟩

end

/-! ### UNPAD, branch by branch -/

theorem unpadCommand_of_notBlocks {b : Block} (hn : b.inLen.toNat = 0 ∨ b.inLen.toNat % 16 ≠ 0) :
    unpadCommand b = ended (outputCleared b) 0x13 0x04 b.inLen := by
  have hblocks : isNotBlocks (operandLength b) = true := (isNotBlocks_iff _).mpr hn
  simp only [unpadCommand, if_pos hblocks, half_operandLength]
  rfl

theorem unpadCommand_of_overflow {b : Block} (hn : b.inLen.toNat % 16 = 0) (hbig : 256 < b.inLen.toNat) :
    unpadCommand b = ended (outputCleared b) 0x23 0x07 b.inLen := by
  have hblocks : isNotBlocks (operandLength b) = false := (isNotBlocks_eq_false b.inLen.toNat).mpr ⟨by omega, hn⟩
  have hbig' : Config.bufferBytes < operandLength b := hbig
  simp only [unpadCommand, hblocks, reduceCtorEq, if_false, if_pos hbig', half_operandLength]
  rfl

/-- Within the buffer UNPAD fails as `unpad` does (R170, R171). -/
theorem unpadCommand_of_unpad_err {b : Block} {k : Kind} (hle : b.inLen.toNat ≤ 256)
    (h : unpad (memRead b.ibuf 0 b.inLen.toNat) = .err k b.inLen.toNat) :
    unpadCommand b = ended (outputCleared b) (code k) 0x04 b.inLen :=
  calc unpadCommand b = raise failOutput k .unpad (half (operandLength b)) b := by
        rw [unpadCommand_eq_showOutputResult hle, h]
        rfl
    _ = ended (outputCleared b) (code k) 0x04 b.inLen := by
        rw [half_operandLength]
        exact raise_failOutput_eq_ended k .unpad b.inLen b

/-- Within the buffer UNPAD writes the message that `unpad` answers (R170, R171). -/
theorem unpadCommand_of_unpad_ok {b : Block} {out : ByteString} (hle : b.inLen.toNat ≤ 256)
    (h : unpad (memRead b.ibuf 0 b.inLen.toNat) = .ok out) : unpadCommand b =
      ended { b with outLen := BitVec.ofNat 16 out.length, obuf := memWrite b.obuf 0 out } 0x01 0x00 0x0000 := by
  rw [unpadCommand_eq_showOutputResult hle, h]
  rfl

/-- Settles O36: the two checks of IN_LEN, then `unpad`'s checks of the operand, as IBUF's bytes decide them. -/
theorem unpadFollowsItsRule : Obligations.UnpadFollowsItsRule := by
  refine fun s => ⟨fun hn => ?notBlocks, fun hn hbig => ?overflow, fun hne hn hle p hp =>
    ⟨fun hbad => ?badValue, fun hpos h16 hbad => ?badBytes, fun hpos h16 hgood => ?message⟩⟩
  case notBlocks => rw [exec_unpad, unpadCommand_of_notBlocks hn]
  case overflow => rw [exec_unpad, unpadCommand_of_overflow hn hbig]
  case badValue =>
    rw [exec_unpad, unpadCommand_of_unpad_err hle (unpad_memRead_of_badPadValue hne hn hp hbad)]
    rfl
  case badBytes =>
    rw [exec_unpad, unpadCommand_of_unpad_err hle (unpad_memRead_of_badPadBytes hne hn hp hpos h16 hbad)]
    rfl
  case message =>
    have heffect := unpadCommand_of_unpad_ok hle (unpad_memRead_of_padded hne hn hp hpos h16 hgood)
    rw [memRead_length] at heffect
    refine ⟨memWrite s.block.obuf 0 (memRead s.block.ibuf 0 (s.block.inLen.toNat - p)), ?_, fun i hi => ?_,
      fun i hi => ?_⟩
    · rw [exec_unpad, heffect]
    · rw [read_memWrite, memRead_length, if_pos (by omega), ← byteAt, byteAt_memRead _ (by omega), Nat.zero_add,
        Nat.sub_zero]
    · rw [read_memWrite, memRead_length, if_neg (by omega)]

/-! ### The harness padding -/

/-- `pad` completes the last block with 1 to 16 bytes (R174). -/
theorem padLength_bounds (m : ByteString) : 1 ≤ padLength m ∧ padLength m ≤ 16 ∧ (m.length + padLength m) % 16 = 0 := by
  unfold padLength
  omega

/-- Settles O37: `pad` gives the padded-plaintext format, which `unpad` takes off again. -/
theorem unpadInvertsPad : Obligations.UnpadInvertsPad := by
  intro m
  obtain ⟨hpos, hle, hblocks⟩ := padLength_bounds m
  exact ⟨padLength m, rfl, hpos, hle, rfl, unpad_append_bytes m hpos hle hblocks⟩

end Sys2Proof.Machine
end

section
/-! PROOFS. The source's `parse` and the body it read, and PARSE branch by branch (spec/43_parse.md R190, R191,
R196). -/

namespace Sys2Proof.Machine

open Sys2Proof.Claims

/-! ### `parse` -/

/-- The length is the only thing `parse` rejects (R191, R196). -/
theorem parse_of_length_ne {b : ByteString} (h : b.length ≠ 8) :
    parse b = .err .unexpectedBodyLength b.length := if_neg h

/-- Settles O40: the record of an 8-byte body is `telemetry`, from which `recordBody` reads the body back. -/
theorem recordRecoversBody : Obligations.RecordRecoversBody :=
  fun b => ⟨fun h => ⟨telemetry b, parse_of_length h, recordBody_telemetry h⟩, parse_of_length_ne⟩

/-! ### PARSE, branch by branch -/

/-- A failure of PARSE or DECODE clears REC and REC_VALID and writes the three outcome registers (R241). -/
theorem raise_failRecord_eq_ended (k : Kind) (st : Stage) (info : Half) (b : Block) :
    raise failRecord k st info b = ended (recordCleared b) (code k) (stageCode st) info := rfl

theorem parseCommand_of_length_ne {b : Block} (h : b.inLen.toNat ≠ 8) :
    parseCommand b = ended (recordCleared b) 0x16 0x05 b.inLen :=
  calc parseCommand b = raise failRecord .unexpectedBodyLength .parse (half (operandLength b)) b := if_neg h
    _ = ended (recordCleared b) 0x16 0x05 b.inLen := by
        rw [half_operandLength]
        exact raise_failRecord_eq_ended .unexpectedBodyLength .parse b.inLen b

/-- Eight bytes of a buffer, latched into REC (R34, R35). -/
theorem recordBytes_memRead (m : Memory) : recordBytes (memRead m 0 8) =
    #v[m.read 0, m.read 1, m.read 2, m.read 3, m.read 4, m.read 5, m.read 6, m.read 7] := rfl

theorem parseCommand_of_length {b : Block} (h : b.inLen.toNat = 8) :
    parseCommand b = ended { b with record := recordBytes (memRead b.ibuf 0 8), recValid := true } 0x01 0x00 0x0000 :=
  calc parseCommand b = succeed (writeRecord (operand b 8) b) := if_pos h
    _ = ended { b with record := recordBytes (memRead b.ibuf 0 8), recValid := true } 0x01 0x00 0x0000 := rfl

/-- Settles O39: `parseCommand`'s equation in each branch, and in the second the eight bytes latched. -/
theorem parseFollowsItsRule : Obligations.ParseFollowsItsRule := by
  refine fun s => ⟨fun h => ?otherLength, fun h => ?body⟩
  case otherLength => rw [exec_parse, parseCommand_of_length_ne h]
  case body => rw [exec_parse, parseCommand_of_length h, recordBytes_memRead]

end Sys2Proof.Machine
end

section
/-! PROOFS. DECODE as the result it shows, the failures it can report, and what the result depends on
(spec/44_decode.md R210, R213 to R218). -/

namespace Sys2Proof.Machine

open Sys2Proof.Claims

/-! ### DECODE as the result it shows -/

/-- The result of ciphertext extraction (R213). -/
def extractResult (b : Block) : Result ByteString :=
  (extractCiphertext b.ibuf (operandLength b)).elim (.err .malformedLength b.inLen.toNat) .ok

/-- DECODE's result in every state (R210), where `beaconDecode` is its result under the lock and the configuration
invariant only (R211). `decodeCommand_eq_show` ties it to the model. -/
def decodeResult (b : Block) : Result TelemetryRecord :=
  if b.cfgLock = false then .err .notConfigured 0
  else if b.advVid ≠ b.expVid then .notApplicable
  else andThen (extractResult b) fun c =>
    if b.keyOk = false then .err .invalidKeySize b.keyLen.toNat
    else andThen (unpad (ecbDecrypt (keyString b) c)) parse

theorem decodeCommand_eq_show (b : Block) : decodeCommand b = showDecodeResult (decodeResult b) b := by
  unfold decodeCommand decodeResult extractResult
  split_ifs with hl hvid hok
  · rfl
  · rfl
  · cases extractCiphertext b.ibuf (operandLength b) with
    | none => rfl
    | some c => exact congrArg (raise failRecord .invalidKeySize .decrypt · b) (zext16_eq_ofNat b.keyLen)
  · cases hextract : extractCiphertext b.ibuf (operandLength b) with
    | none => rfl
    | some c =>
      have hc : c.length = 16 := extractCiphertext_length hextract
      have hplain : (ecbDecrypt (keyString b) c).length = 16 := (ecbDecrypt_length _ c (by omega)).trans hc
      exact decodePlaintext_eq_showDecodeResult hplain b

/-- DECODE shows its result in the block (R210). -/
theorem exec_decode_eq_show (s : State) :
    exec .decode s = .next (s.withBlock (showDecodeResult (decodeResult s.block) s.block)) := by
  rw [exec_decode, decodeCommand_eq_show]

/-! ### The result, branch by branch -/

/-- The two payload forms, by their length and where the ciphertext begins (R213). `extractCiphertext_of_form` ties
them to the model. -/
abbrev PayloadForm (n first : Nat) : Prop := (n = 16 ∧ first = 0) ∨ (n = 18 ∧ first = 2)

theorem exists_payloadForm {n : Nat} : n = 16 ∨ n = 18 → ∃ first, PayloadForm n first
  | .inl h => ⟨0, .inl ⟨h, rfl⟩⟩
  | .inr h => ⟨2, .inr ⟨h, rfl⟩⟩

theorem extractCiphertext_of_form {m : Memory} {n first : Nat} (h : PayloadForm n first) :
    extractCiphertext m n = some (memRead m first 16) := by
  rcases h with ⟨rfl, rfl⟩ | ⟨rfl, rfl⟩ <;> rfl

theorem extractResult_of_form {b : Block} {first : Nat} (h : PayloadForm b.inLen.toNat first) :
    extractResult b = .ok (memRead b.ibuf first 16) := by
  rw [extractResult, operandLength, extractCiphertext_of_form h, Option.elim_some]

theorem extractResult_of_otherLength {b : Block} (h16 : b.inLen.toNat ≠ 16) (h18 : b.inLen.toNat ≠ 18) :
    extractResult b = .err .malformedLength b.inLen.toNat := by
  have hnone : extractCiphertext b.ibuf (operandLength b) = none := (if_neg h16).trans (if_neg h18)
  rw [extractResult, hnone, Option.elim_none]

theorem decodeResult_of_unlocked {b : Block} (hl : b.cfgLock = false) :
    decodeResult b = .err .notConfigured 0 := if_pos hl

theorem decodeResult_of_otherVendor {b : Block} (hl : b.cfgLock = true) (hvid : b.advVid ≠ b.expVid) :
    decodeResult b = .notApplicable := by
  rw [decodeResult, if_neg (by simp [hl]), if_pos hvid]

/-- After the filter (R212) come extraction, decryption, unpadding and parsing. -/
theorem decodeResult_of_vendor {b : Block} (hl : b.cfgLock = true) (hvid : b.advVid = b.expVid) :
    decodeResult b = andThen (extractResult b) fun c =>
      if b.keyOk = false then .err .invalidKeySize b.keyLen.toNat
      else andThen (unpad (ecbDecrypt (keyString b) c)) parse := by
  rw [decodeResult, if_neg (by simp [hl]), if_neg (not_not_intro hvid)]

theorem decodeResult_of_otherLength {b : Block} (hl : b.cfgLock = true) (hvid : b.advVid = b.expVid)
    (h16 : b.inLen.toNat ≠ 16) (h18 : b.inLen.toNat ≠ 18) :
    decodeResult b = .err .malformedLength b.inLen.toNat := by
  rw [decodeResult_of_vendor hl hvid, extractResult_of_otherLength h16 h18, andThen_err]

theorem decodeResult_of_badKey {b : Block} (hl : b.cfgLock = true) (hvid : b.advVid = b.expVid)
    (hn : b.inLen.toNat = 16 ∨ b.inLen.toNat = 18) (hok : b.keyOk = false) :
    decodeResult b = .err .invalidKeySize b.keyLen.toNat := by
  obtain ⟨first, hform⟩ := exists_payloadForm hn
  rw [decodeResult_of_vendor hl hvid, extractResult_of_form hform, andThen_ok, if_pos hok]

/-- With a usable key and one of the two forms, DECODE unpads and parses one decrypted block. -/
theorem decodeResult_of_ciphertext {b : Block} {first : Nat} (hl : b.cfgLock = true) (hvid : b.advVid = b.expVid)
    (hok : b.keyOk = true) (hform : PayloadForm b.inLen.toNat first) :
    decodeResult b = andThen (unpad (invCipher (keyString b) (memRead b.ibuf first 16))) parse := by
  rw [decodeResult_of_vendor hl hvid, extractResult_of_form hform, andThen_ok, if_neg (by simp [hok]),
    ecbDecrypt_block _ (memRead_length _ _ _)]

/-! ### How a result shows -/

theorem showDecodeResult_err (k : Kind) (info : Nat) (b : Block) : showDecodeResult (.err k info) b =
    ended (recordCleared b) (code k) (stageCode (stageOfError k)) (BitVec.ofNat 16 info) := rfl

/-- The record of an 8-byte body shows as the body in REC (R211). -/
theorem showDecodeResult_telemetry {s : ByteString} (h : s.length = 8) (b : Block) :
    showDecodeResult (.ok (telemetry s)) b = succeed (writeRecord s b) := by
  rw [showDecodeResult, recordBody_telemetry h]

/-- Every byte string stands in some buffer, so what is known of strings read from buffers is known of it. -/
theorem exists_memRead_eq {s : ByteString} {n : Nat} (h : s.length = n) : ∃ m : Memory, s = memRead m 0 n :=
  ⟨memWrite [] 0 s, by rw [← h, memRead_memWrite_self]⟩

/-! ### Unpadding and parsing a plaintext of one block, `p` being its last byte (R210) -/

section
variable {m : Memory} {p : Nat}

theorem show_unpad_parse_of_badPadValue (hp : (m.read 15).toNat = p) (hbad : p < 1 ∨ 16 < p) (b : Block) :
    showDecodeResult (andThen (unpad (memRead m 0 16)) parse) b = ended (recordCleared b) 0x14 0x04 16 := by
  rw [unpad_memRead_of_badPadValue (by decide) (by decide) hp hbad]
  rfl

theorem show_unpad_parse_of_badPadBytes (hp : (m.read 15).toNat = p) (hpos : 1 ≤ p) (hle : p ≤ 16)
    (hbad : ∃ j, 16 - p ≤ j ∧ j < 16 ∧ (m.read j).toNat ≠ p) (b : Block) :
    showDecodeResult (andThen (unpad (memRead m 0 16)) parse) b = ended (recordCleared b) 0x15 0x04 16 := by
  rw [unpad_memRead_of_badPadBytes (by decide) (by decide) hp hpos hle hbad]
  rfl

theorem show_unpad_parse_of_otherBody (hp : (m.read 15).toNat = p) (hpos : 1 ≤ p) (hle : p ≤ 16) (hne : p ≠ 8)
    (hgood : ∀ j, 16 - p ≤ j → j < 16 → (m.read j).toNat = p) (b : Block) :
    showDecodeResult (andThen (unpad (memRead m 0 16)) parse) b =
      ended (recordCleared b) 0x16 0x05 (BitVec.ofNat 16 (16 - p)) := by
  have hlength : (memRead m 0 (16 - p)).length ≠ 8 := by rw [memRead_length]; omega
  rw [unpad_memRead_of_padded (by decide) (by decide) hp hpos hle hgood, andThen_ok, parse_of_length_ne hlength,
    memRead_length]
  rfl

/-- Eight padding bytes leave a body, which REC takes. -/
theorem show_unpad_parse_of_body (hgood : ∀ j, 8 ≤ j → j < 16 → (m.read j).toNat = 8) (b : Block) :
    showDecodeResult (andThen (unpad (memRead m 0 16)) parse) b =
      ended { b with record := recordBytes (memRead m 0 8), recValid := true } 0x01 0x00 0x0000 := by
  have hp : (m.read 15).toNat = 8 := hgood 15 (by decide) (by decide)
  rw [unpad_memRead_of_padded (by decide) (by decide) hp (by decide) (by decide) hgood, andThen_ok,
    parse_of_length (memRead_length _ _ _), showDecodeResult_telemetry (memRead_length _ _ _)]
  rfl

end

/-- Settles O42: DECODE's result in each branch. The plaintext is taken as a buffer's bytes, so what it gives is
`unpad`'s and `parse`'s branches on a buffer. -/
theorem decodeFollowsItsRule : Obligations.DecodeFollowsItsRule := by
  intro s
  rw [exec_decode_eq_show]
  refine ⟨fun hl => ?unlocked, fun hl hvid => ?otherVendor, fun hl hvid h16 h18 => ?otherLength,
    fun hl hvid hn hok => ?badKey, fun hl hvid hok first p hform plain hplain hp => ?ciphertext⟩
  case unlocked =>
    rw [decodeResult_of_unlocked hl]
    rfl
  case otherVendor =>
    rw [decodeResult_of_otherVendor hl hvid]
    rfl
  case otherLength =>
    rw [decodeResult_of_otherLength hl hvid h16 h18, showDecodeResult_err, BitVec.ofNat_toNat, BitVec.setWidth_eq]
    rfl
  case badKey =>
    rw [decodeResult_of_badKey hl hvid hn hok]
    rfl
  case ciphertext =>
    have hresult : decodeResult s.block = andThen (unpad plain) parse :=
      hplain ▸ decodeResult_of_ciphertext hl hvid hok hform
    obtain ⟨m, rfl⟩ : ∃ m, plain = memRead m 0 16 := exists_memRead_eq (hplain ▸ invCipher_length _ _)
    have hbyte {j : Nat} (hj : j < 16) : byteAt (memRead m 0 16) j = m.read j := by
      rw [byteAt_memRead m hj, Nat.zero_add]
    have hlast : (m.read 15).toNat = p := hbyte (by decide : 15 < 16) ▸ hp
    rw [hresult]
    refine ⟨fun hbad => ?badValue, fun hpos hle hbad => ?badBytes, fun hpos hle hne hgood => ?otherBody,
      fun _ hgood => ?body⟩
    case badValue => rw [show_unpad_parse_of_badPadValue hlast hbad]
    case badBytes =>
      obtain ⟨j, hlow, hhigh, hwrong⟩ := hbad
      rw [show_unpad_parse_of_badPadBytes hlast hpos hle ⟨j, hlow, hhigh, hbyte hhigh ▸ hwrong⟩]
    case otherBody =>
      rw [show_unpad_parse_of_otherBody hlast hpos hle hne fun j hlow hhigh => hbyte hhigh ▸ hgood j hlow hhigh]
    case body =>
      rw [show_unpad_parse_of_body fun j hlow hhigh => hbyte hhigh ▸ hgood j hlow hhigh]
      rfl

/-! ### The failures that DECODE reports -/

/-- A failure of a stage, or of those after it. -/
theorem andThen_eq_err {α β : Type} {r : Result α} {f : α → Result β} {k : Kind} {info : Nat}
    (h : andThen r f = .err k info) : r = .err k info ∨ ∃ v, r = .ok v ∧ f v = .err k info := by
  cases r with
  | ok v => exact .inr ⟨v, rfl, h⟩
  | err k' info' =>
    cases h
    exact .inl rfl
  | notApplicable => cases h

/-- The errors of DECODE with the lengths they report (R210, R215). -/
inductive DecodeFailure (b : Block) : Kind → Nat → Prop where
  | notConfigured : DecodeFailure b .notConfigured 0
  | malformedLength : b.inLen.toNat ≠ 16 → b.inLen.toNat ≠ 18 → DecodeFailure b .malformedLength b.inLen.toNat
  | invalidKeySize : DecodeFailure b .invalidKeySize b.keyLen.toNat
  | invalidPaddingValue : DecodeFailure b .invalidPaddingValue 16
  | invalidPaddingBytes : DecodeFailure b .invalidPaddingBytes 16
  | unexpectedBodyLength {n : Nat} : n < 16 → n ≠ 8 → DecodeFailure b .unexpectedBodyLength n

/-- The last two stages fail on a 16-byte plaintext with its length or the body's (R215). -/
theorem andThen_unpad_parse_err {p : ByteString} (hp : p.length = 16) (b : Block) {k : Kind} {info : Nat}
    (h : andThen (unpad p) parse = .err k info) : DecodeFailure b k info := by
  rcases andThen_eq_err h with hunpad | ⟨body, hunpad, hparse⟩
  · have hsize : isNotBlocks 16 = false := rfl
    rw [unpad, hp, if_neg (by simp [hsize])] at hunpad
    split_ifs at hunpad <;> cases hunpad
    · exact .invalidPaddingValue
    · exact .invalidPaddingBytes
  · obtain ⟨_, hpos, _, hformat⟩ := padded_of_unpad hunpad
    have hlength : body.length + padCount p = 16 := by
      rw [← hp, congrArg List.length hformat, List.length_append, bytes_length]
    by_cases h8 : body.length = 8
    · rw [parse_of_length h8] at hparse
      cases hparse
    · rw [parse_of_length_ne h8] at hparse
      cases hparse
      exact .unexpectedBodyLength (by omega) h8

/-- Every error of DECODE is one of R210's, with the length it reports. -/
theorem decodeResult_err {b : Block} {k : Kind} {info : Nat} (h : decodeResult b = .err k info) :
    DecodeFailure b k info := by
  by_cases hl : b.cfgLock = false
  · rw [decodeResult_of_unlocked hl] at h
    cases h
    exact .notConfigured
  rw [Bool.not_eq_false] at hl
  by_cases hvid : b.advVid = b.expVid
  case neg =>
    rw [decodeResult_of_otherVendor hl hvid] at h
    cases h
  by_cases hn : b.inLen.toNat = 16 ∨ b.inLen.toNat = 18
  case neg =>
    obtain ⟨h16, h18⟩ := not_or.mp hn
    rw [decodeResult_of_otherLength hl hvid h16 h18] at h
    cases h
    exact .malformedLength h16 h18
  by_cases hok : b.keyOk = false
  · rw [decodeResult_of_badKey hl hvid hn hok] at h
    cases h
    exact .invalidKeySize
  · obtain ⟨first, hform⟩ := exists_payloadForm hn
    rw [decodeResult_of_ciphertext hl hvid (by simpa using hok) hform] at h
    exact andThen_unpad_parse_err (invCipher_length _ _) b h

/-- ERR_INFO after a DECODE, in STATUS's terms (R215). -/
theorem DecodeFailure.info_is_length {b : Block} {k : Kind} {info : Nat} (h : DecodeFailure b k info) :
    code k ∉ [0x12#8, 0x13#8, 0x23#8] ∧
    (half info = 0 ∨ (code k = 0x10 ∧ half info = b.inLen) ∨
      (code k = 0x11 ∧ (half info).toNat = b.keyLen.toNat) ∨
      ((code k = 0x14 ∨ code k = 0x15) ∧ half info = 16) ∨
      (code k = 0x16 ∧ (half info).toNat < 16 ∧ half info ≠ 8)) := by
  cases h with
  | notConfigured => exact ⟨by decide, .inl rfl⟩
  | malformedLength _ _ => exact ⟨by decide, .inr (.inl ⟨rfl, half_operandLength b⟩)⟩
  | invalidKeySize =>
    have hlt := b.keyLen.isLt
    exact ⟨by decide, .inr (.inr (.inl ⟨rfl, by rw [half_toNat]; omega⟩))⟩
  | invalidPaddingValue => exact ⟨by decide, .inr (.inr (.inr (.inl ⟨.inl rfl, rfl⟩)))⟩
  | invalidPaddingBytes => exact ⟨by decide, .inr (.inr (.inr (.inl ⟨.inr rfl, rfl⟩)))⟩
  | unexpectedBodyLength hlt hne =>
    have hinfo : (half info).toNat = info := (half_toNat info).trans (Nat.mod_eq_of_lt (by omega))
    exact ⟨by decide, .inr (.inr (.inr (.inr ⟨rfl, by omega, fun h8 => hne (by simpa [h8] using hinfo.symm)⟩)))⟩

/-- Settles O48: no result of DECODE shows in OUT_LEN or OBUF, and its errors report lengths. -/
theorem decodeExposesNoIntermediate : Obligations.DecodeExposesNoIntermediate := by
  refine fun s => ⟨_, exec_decode_eq_show s, ?_⟩
  rw [withBlock_block]
  cases hr : decodeResult s.block with
  | ok _ => exact ⟨rfl, rfl, (by decide : code .ok ∉ [0x12#8, 0x13#8, 0x23#8]), .inl rfl⟩
  | notApplicable => exact ⟨rfl, rfl, (by decide : code .notApplicable ∉ [0x12#8, 0x13#8, 0x23#8]), .inl rfl⟩
  | err k info => exact ⟨rfl, rfl, (decodeResult_err hr).info_is_length⟩

/-! ### What the result depends on -/

/-- DECODE's result depends on the configuration, ADV_VID and the extracted ciphertext (R213, R216). -/
theorem decodeResult_congr {b c : Block} (hconfig : sameConfiguration b c) (hadv : c.advVid = b.advVid)
    (hextract : extractResult c = extractResult b) : decodeResult c = decodeResult b := by
  obtain ⟨hlock, hok, hexp, hlen, hkey⟩ := hconfig
  simp only [decodeResult, keyString, hlock, hok, hexp, hlen, hkey, hadv, hextract]

theorem sameDecodeResult_show (r : Result TelemetryRecord) (b c : Block) :
    sameDecodeResult (showDecodeResult r b) (showDecodeResult r c) := by
  cases r <;> exact ⟨rfl, rfl, rfl, rfl, rfl⟩

/-- Two machines with one result of DECODE show it alike. -/
theorem exec_decode_sameDecodeResult {s s' : State} (h : decodeResult s'.block = decodeResult s.block) :
    ∃ t t', exec .decode s = .next t ∧ exec .decode s' = .next t' ∧ sameDecodeResult t.block t'.block := by
  refine ⟨_, _, exec_decode_eq_show s, exec_decode_eq_show s', ?_⟩
  rw [h]
  exact sameDecodeResult_show _ _ _

/-- A payload of one of the two lengths is not malformed (R213, R216). -/
theorem exec_decode_status_ne_malformed {s t : State} (hn : s.block.inLen.toNat = 16 ∨ s.block.inLen.toNat = 18)
    (h : exec .decode s = .next t) : t.block.status ≠ 0x10 := by
  rw [exec_decode_eq_show] at h
  cases h
  rw [withBlock_block]
  cases hr : decodeResult s.block with
  | ok _ => exact (by decide : code .ok ≠ 0x10)
  | notApplicable => exact (by decide : code .notApplicable ≠ 0x10)
  | err k info =>
    show code k ≠ 0x10
    cases decodeResult_err hr with
    | malformedLength h16 h18 => omega
    | notConfigured | invalidKeySize | invalidPaddingValue | invalidPaddingBytes | unexpectedBodyLength _ _ => decide

/-- Settles O45: both forms extract the same ciphertext, and neither is malformed. -/
theorem headerIndependence : Obligations.HeaderIndependence := by
  intro s s' h18 h16 hbytes hadv hconfig
  have hn : s.block.inLen.toNat = 18 := by rw [h18]; rfl
  have hn' : s'.block.inLen.toNat = 16 := by rw [h16]; rfl
  have hextract : extractResult s'.block = extractResult s.block := by
    rw [extractResult_of_form (.inr ⟨hn, rfl⟩), extractResult_of_form (.inl ⟨hn', rfl⟩)]
    exact congrArg Result.ok (memRead_congr fun j hj => by rw [Nat.zero_add, hbytes j hj])
  obtain ⟨t, t', ht, ht', hsame⟩ := exec_decode_sameDecodeResult (decodeResult_congr hconfig hadv hextract)
  exact ⟨t, t', ht, ht', hsame, exec_decode_status_ne_malformed (.inr hn) ht,
    exec_decode_status_ne_malformed (.inl hn') ht'⟩

/-- The operands that R217 lists determine DECODE's result. -/
theorem decodeResult_of_sameDecodeOperands {b c : Block} (h : sameDecodeOperands b c) :
    decodeResult c = decodeResult b := by
  obtain ⟨hadv, hlen, hbytes, hlock, hexp, hok, hkeyLen, hkey⟩ := h
  refine decodeResult_congr ⟨hlock, hok, hexp, hkeyLen, hkey⟩ hadv ?_
  have hoperand : operandLength c = operandLength b := congrArg BitVec.toNat hlen
  rw [extractResult, extractResult, hoperand, hlen, extractCiphertext_of_sameOperandBytes hbytes]

/-- Showing a result leaves what DECODE reads. -/
theorem showDecodeResult_keeps (r : Result TelemetryRecord) (b : Block) :
    sameOperands b (showDecodeResult r b) ∧ (showDecodeResult r b).cfgLock = b.cfgLock ∧
      (showDecodeResult r b).keyOk = b.keyOk := by
  cases r <;> exact ⟨⟨rfl, rfl, rfl, rfl, rfl, rfl⟩, rfl, rfl⟩

theorem decodeResult_show (r : Result TelemetryRecord) (b : Block) :
    decodeResult (showDecodeResult r b) = decodeResult b := by
  obtain ⟨⟨hlen, hadv, hexp, hkeyLen, hkey, hibuf⟩, hlock, hok⟩ := showDecodeResult_keeps r b
  exact decodeResult_of_sameDecodeOperands ⟨hadv, hlen, fun _ _ => by rw [hibuf], hlock, hexp, hok, hkeyLen, hkey⟩

/-- A result shown again changes nothing. -/
theorem show_showDecodeResult (r : Result TelemetryRecord) (b : Block) :
    showDecodeResult r (showDecodeResult r b) = showDecodeResult r b := by
  cases r <;> rfl

/-- Settles O46: the result is the same for the same operands, and DECODE keeps its own, so that the second DECODE
shows the first one's result again. -/
theorem decodeDeterminedByOperands : Obligations.DecodeDeterminedByOperands := by
  refine ⟨fun s s' h => exec_decode_sameDecodeResult (decodeResult_of_sameDecodeOperands h),
    fun s => ⟨_, exec_decode_eq_show s, ?_, showDecodeResult_keeps _ s.block⟩⟩
  rw [exec_decode_eq_show, withBlock_withBlock, withBlock_block, decodeResult_show, show_showDecodeResult]

/-! ### The round trip -/

/-- One block that the forward cipher made is decrypted to its plaintext (R144). -/
theorem invCipher_ecbEncrypt (key : ByteString) {p : ByteString} (h : p.length = 16) :
    invCipher key (ecbEncrypt key p) = p := by
  rw [ecbEncrypt_block key h, invCipher_cipher key h]

/-- Settles O47: decryption undoes the cipher, `unpad` undoes `pad`, and the record shows as the body. -/
theorem telemetryRoundTrip : Obligations.TelemetryRoundTrip := by
  intro s body hbody hl hok hvid hlen hcipher
  obtain ⟨_, _, _, _, _, hunpad⟩ := unpadInvertsPad body
  have hn : s.block.inLen.toNat = 16 := by rw [hlen]; rfl
  have hpad : (pad body).length = 16 := by
    rw [pad, List.length_append, bytes_length, padLength, hbody]
  have hresult : decodeResult s.block = .ok (telemetry body) :=
    calc decodeResult s.block
      _ = andThen (unpad (invCipher (keyString s.block) (memRead s.block.ibuf 0 16))) parse :=
          decodeResult_of_ciphertext hl hvid hok (.inl ⟨hn, rfl⟩)
      _ = andThen (unpad (pad body)) parse := by rw [hcipher, keyString, invCipher_ecbEncrypt _ hpad]
      _ = .ok (telemetry body) := by rw [hunpad, andThen_ok, parse_of_length hbody]
  refine ⟨_, exec_decode_eq_show s, ?_⟩
  rw [withBlock_block, hresult, showDecodeResult_telemetry hbody]
  exact ⟨rfl, rfl, recordBytes_toList hbody⟩

end Sys2Proof.Machine
end

section
/-! PROOFS. What an error keeps: the idle step, and a wrong key length that stands until reset
(spec/60_exceptions.md R252, R256). -/

namespace Sys2Proof.Machine

open Sys2Proof.Claims

/-- Settles O8: with no event to take, `step` answers the state it is given. -/
theorem idleStepHoldsState : Obligations.IdleStepHoldsState := fun _ => step_of_pending_nil

/-! ### Commands that need no configuration -/

/-- The block with other CFG_LOCK and KEY_OK bits. -/
abbrev Block.withLock (b : Block) (locked usable : Bool) : Block := { b with cfgLock := locked, keyOk := usable }

/-- UNPAD neither reads nor writes CFG_LOCK and KEY_OK (R170, R252). -/
theorem unpadCommand_withLock (b : Block) (locked usable : Bool) :
    unpadCommand (b.withLock locked usable) = (unpadCommand b).withLock locked usable := by
  have hlen : operandLength (b.withLock locked usable) = operandLength b := rfl
  have hoperand : operand (b.withLock locked usable) = operand b := rfl
  simp only [unpadCommand, hlen, hoperand]
  split_ifs <;> rfl

/-- PARSE neither reads nor writes CFG_LOCK and KEY_OK (R190, R252). -/
theorem parseCommand_withLock (b : Block) (locked usable : Bool) :
    parseCommand (b.withLock locked usable) = (parseCommand b).withLock locked usable := by
  have hlen : operandLength (b.withLock locked usable) = operandLength b := rfl
  simp only [parseCommand, hlen]
  split_ifs <;> rfl

/-! ### DECODE without a usable key -/

/-- With a matching vendor and one of the two payload lengths, DECODE gets as far as the key (R214, R252). -/
theorem decodeCommand_status_of_badKey {b : Block} (hl : b.cfgLock = true) (hok : b.keyOk = false)
    (hvid : b.advVid = b.expVid) (hn : b.inLen = 16 ∨ b.inLen = 18) : (decodeCommand b).status = 0x11 := by
  have hlength : b.inLen.toNat = 16 ∨ b.inLen.toNat = 18 :=
    hn.imp (congrArg BitVec.toNat) (congrArg BitVec.toNat)
  rw [decodeCommand_eq_show, decodeResult_of_badKey hl hvid hlength hok]
  rfl

/-- The vendor filter stands before the key, so another vendor's payload is not applicable whatever the key (R212,
R252). -/
theorem decodeCommand_status_of_otherVendor {b : Block} (hl : b.cfgLock = true) (hvid : b.advVid ≠ b.expVid) :
    (decodeCommand b).status = 0x02 := by
  rw [decodeCommand_eq_show, decodeResult_of_otherVendor hl hvid]
  rfl

/-! ### The statement -/

/-- Settles O25: CONFIG's branch for a wrong key length, the lock that keeps its two bits (`configurationLock`), the
commands that then find no usable key, and those that never look for one. -/
theorem badKeyPersists : Obligations.BadKeyPersists := by
  obtain ⟨-, hlocked, -⟩ := configurationLock
  refine ⟨fun s hl hk => ?config, fun s t hl hok hreset hstep => ?kept, fun s hl hok => ⟨?decrypt, ?vendor, ?filter⟩,
    fun s c k => ?unconfigured⟩
  case config =>
    have hlength : s.block.keyLen.toNat ≠ 16 := fun h => hk (BitVec.eq_of_toNat_eq h)
    refine ⟨_, exec_config s, ?_⟩
    rw [withBlock_block, configure_of_badKey hl hlength]
    exact ⟨rfl, rfl, rfl⟩
  case kept =>
    obtain ⟨hlock, hkeyOk, -, -, -⟩ := hlocked s t hl hreset hstep
    exact ⟨hlock.trans hl, hkeyOk.trans hok⟩
  case decrypt =>
    refine ⟨_, exec_decrypt s, ?_⟩
    rw [withBlock_block, decryptCommand_of_badKey hl hok]
    rfl
  case vendor => exact fun hvid hn => ⟨_, exec_decode s, decodeCommand_status_of_badKey hl hok hvid hn⟩
  case filter => exact fun hvid => ⟨_, exec_decode s, decodeCommand_status_of_otherVendor hl hvid⟩
  case unconfigured =>
    refine ⟨_, _, exec_unpad s, ?_, exec_parse s, ?_⟩
    · rw [exec_unpad, withBlock_block, unpadCommand_withLock]
      rfl
    · rw [exec_parse, withBlock_block, parseCommand_withLock]
      rfl

end Sys2Proof.Machine
end

section
/-! PROOFS. The bound on CMD_LATENCY (spec/70_reset_and_hazards.md R277). -/

namespace Sys2Proof.Machine

open Sys2Proof.Config

/-- The quick commands are NOP and the illegal commands, and no other (R277). -/
theorem quickCommand_iff (op : Byte) : quickCommand op = true ↔ op = 0x00 ∨ 0x05 < op := by
  simp only [quickCommand, Bool.or_eq_true, beq_iff_eq, decide_eq_true_eq]

/-- A quick command stays within the floor (R277). -/
theorem cmdLatency_le_latencyFloor {op : Byte} (h : quickCommand op = true) (n : Half) (p : Nat) :
    cmdLatency op n p ≤ latencyFloor := by
  rw [cmdLatency, if_pos h]
  exact Nat.min_le_right _ _

/-- A command that is not quick takes at least the floor (R277). -/
theorem latencyFloor_le_cmdLatency {op : Byte} (h : ¬quickCommand op = true) (n : Half) (p : Nat) :
    latencyFloor ≤ cmdLatency op n p := by
  rw [cmdLatency, if_neg h]
  exact Nat.le_add_right _ _

/-- Settles O53: the floor stands between the quick commands and the others. -/
theorem quickCommands : Obligations.QuickCommands := by
  intro op op' n n' p p' hquick hne hle
  have hslow : ¬quickCommand op' = true := fun h =>
    ((quickCommand_iff op').mp h).elim hne (BitVec.not_lt.mpr hle)
  calc cmdLatency op n p
    _ ≤ latencyFloor := cmdLatency_le_latencyFloor ((quickCommand_iff op).mpr hquick) n p
    _ ≤ cmdLatency op' n' p' := latencyFloor_le_cmdLatency hslow n' p'

end Sys2Proof.Machine
end
